-- ==== Sys2Proof/Word.lean ====
section
/-! DEFINITION. The machine word and the byte (00_scope.md R7, R8). -/

namespace Sys2Proof

/-- R7, R8: every state word, key half, message block, result and register is an unsigned 64-bit integer (`u64`). -/
abbrev Word := BitVec 64

/-- One message byte, or one byte lane of the bus (R12, R41). -/
abbrev Byte := BitVec 8

end Sys2Proof
end

