-- ==== Sys2Proof/Syntax.lean ====
section
/-! DEFINITION. What a host can say to the engine: registers, commands, bus accesses, the two formats of R53, and `Instr`,
one constructor per row of opcode_table.json. -/

namespace Sys2Proof

/-- 20_memory.md R38: the thirteen registers of the block. -/
inductive Reg where
  | id | cmd | status | cfg | key0 | key1 | msg | len | result | const0 | const1 | const2 | const3
deriving DecidableEq, Repr

/-- 30_encoding.md R56: the six commands. `tail n` carries NB, the 3-bit byte count of the final block (R54). -/
inductive Command where
  | nop
  | init
  | absorb
  | tail (n : BitVec 3)
  | finalize
  | abort
deriving DecidableEq, Repr

/-- 30_encoding.md R61: a host access, `RDn off` or `WRn off, v`. `n` is the width in bytes, `off` the offset in the register
block (R11). The value of a write narrower than 8 bytes is carried in a word too; no rule reads it (R43). -/
inductive Access where
  | rd (n off : Nat)
  | wr (n off : Nat) (v : Word)
deriving DecidableEq, Repr

/-- The width in bytes of an access. -/
def Access.width : Access → Nat
  | .rd n _ => n
  | .wr n _ _ => n

/-- The register-block offset of an access. -/
def Access.off : Access → Nat
  | .rd _ off => off
  | .wr _ off _ => off

/-- 30_encoding.md R53: the engine's two formats, a command word and a bus access. -/
inductive Encoded where
  | cmd (w : Word)
  | bus (a : Access)
deriving DecidableEq, Repr

/-- The bus response of an access: read data (R83), OK (R93), or the error response of R43. -/
inductive Response where
  | data (v : Word)
  | ok
  | busError (off : Nat)
deriving DecidableEq, Repr

/-- Why a bus access is no instruction: R43's bus error, or an offset outside the 128-byte block (R37, R38). -/
inductive BusReject where
  | busError (off : Nat)
  | outsideBlock (off : Nat)
deriving DecidableEq, Repr

/-- Why an encoding is no instruction: an illegal command word, with its OPC byte (R64), or a rejected bus access. -/
inductive Reject where
  | illegalCommand (opc : Byte)
  | bus (r : BusReject)
deriving DecidableEq, Repr

/-- 40_datapath.md R82: the one error of the reference function. -/
inductive ReferenceError where
  | missingInput
deriving DecidableEq, Repr

/-- The rows of opcode_table.json: six commands (R103–R108), thirteen register reads (R84–R92) and thirteen register
writes (R94–R99). A write carries the 64-bit value written. -/
inductive Instr where
  | nop
  | init
  | absorb
  | tail (n : BitVec 3)
  | finalize
  | abort
  | rdId
  | rdCmd
  | rdStatus
  | rdCfg
  | rdKey0
  | rdKey1
  | rdMsg
  | rdLen
  | rdResult
  | rdConst0
  | rdConst1
  | rdConst2
  | rdConst3
  | wrCmd (w : Word)
  | wrCfg (v : Word)
  | wrKey0 (v : Word)
  | wrKey1 (v : Word)
  | wrMsg (v : Word)
  | wrId (v : Word)
  | wrStatus (v : Word)
  | wrLen (v : Word)
  | wrResult (v : Word)
  | wrConst0 (v : Word)
  | wrConst1 (v : Word)
  | wrConst2 (v : Word)
  | wrConst3 (v : Word)
deriving DecidableEq, Repr

end Sys2Proof
end

