-- ==== Sys2Proof/WellFormed.lean ====
section
/-! DEFINITION. Which encodings are well formed, written from the TABLES of the spec (opcode_table.json's match and mask,
R38's register map). Decode.lean is written from the spec's formulas (R55, R43) instead; that the two agree is a statement,
not a definition. Every term of `Instr` itself is well formed: each field has exactly the width its encoding admits. -/

namespace Sys2Proof

/-- One CMD row of opcode_table.json. -/
structure CmdRow where
  pattern : Word
  mask : Word
deriving DecidableEq, Repr

/-- opcode_table.json, the six CMD rows: NOP, INIT, ABSORB, TAIL, FINALIZE, ABORT. -/
def cmdRows : List CmdRow :=
  [⟨0x0000000000000000, 0xffffffffffffffff⟩, ⟨0x0000000000000001, 0xffffffffffffffff⟩,
   ⟨0x0000000000000002, 0xffffffffffffffff⟩, ⟨0x0000000000000003, 0xfffffffffffff8ff⟩,
   ⟨0x0000000000000004, 0xffffffffffffffff⟩, ⟨0x0000000000000005, 0xffffffffffffffff⟩]

/-- The word fits a row: its fixed bits are the row's. -/
def CmdRow.fits (r : CmdRow) (w : Word) : Bool := w &&& r.mask == r.pattern

/-- A command word is well formed when some row of the table fits it. -/
def wordWf (w : Word) : Bool := cmdRows.any fun r => r.fits w

/-- 20_memory.md R38: the offsets of the register map. -/
def registerOffsets : List Nat :=
  [0x00, 0x08, 0x10, 0x18, 0x20, 0x28, 0x30, 0x38, 0x40, 0x48, 0x50, 0x58, 0x60]

/-- R37: the offset lies in the 128-byte block. -/
def Access.inBlock (a : Access) : Bool := a.off < 128

/-- R42, R43: the width is 8 bytes. -/
def Access.widthWf (a : Access) : Bool := a.width == 8

/-- R38: the offset is a register's; this excludes misaligned and reserved offsets (R42, R43). -/
def Access.offsetWf (a : Access) : Bool := registerOffsets.contains a.off

/-- A bus access is well formed when it lies in the block, is 8 bytes wide and addresses a register. -/
def Access.wf (a : Access) : Bool := a.inBlock && a.widthWf && a.offsetWf

/-- R53: an encoding of either format is well formed. -/
def Encoded.wf : Encoded → Bool
  | .cmd w => wordWf w
  | .bus a => a.wf

end Sys2Proof
end

