-- ==== Sys2Proof/Decode.lean ====
section
/-! DEFINITION. The decoder, total on both formats of R53, written from R43, R55 and R64; after it the encoder, written from
R38 and R56; then the host's numbering of table words. -/

namespace Sys2Proof

/-- R53: OPC is bits 7:0. -/
def opcField (w : Word) : Byte := w.extractLsb' 0 8

/-- R53: NB is bits 10:8. -/
def nbField (w : Word) : BitVec 3 := w.extractLsb' 8 3

/-- R53: RSV is bits 63:11. -/
def rsvField (w : Word) : BitVec 53 := w.extractLsb' 11 53

/-- R55: legal(w) = (w[7:0] <= 0x05) and (w[63:11] == 0) and (w[7:0] == 0x03 or w[10:8] == 0). -/
def legalWord (w : Word) : Bool :=
  decide (opcField w ≤ 0x05) && rsvField w == 0 && (opcField w == 0x03 || nbField w == 0)

/-- R64: every word is exactly one of the six commands, or illegal with its OPC byte. It reads only `w`. -/
def decodeCmd (w : Word) : Except Byte Command :=
  if legalWord w then
    if opcField w = 0x00 then .ok .nop
    else if opcField w = 0x01 then .ok .init
    else if opcField w = 0x02 then .ok .absorb
    else if opcField w = 0x03 then .ok (.tail (nbField w))
    else if opcField w = 0x04 then .ok .finalize
    else .ok .abort
  else .error (opcField w)

/-- R38: the register at an offset. -/
def regAt (off : Nat) : Option Reg :=
  match off with
  | 0x00 => some .id
  | 0x08 => some .cmd
  | 0x10 => some .status
  | 0x18 => some .cfg
  | 0x20 => some .key0
  | 0x28 => some .key1
  | 0x30 => some .msg
  | 0x38 => some .len
  | 0x40 => some .result
  | 0x48 => some .const0
  | 0x50 => some .const1
  | 0x58 => some .const2
  | 0x60 => some .const3
  | _ => none

/-- The read of a register (R83–R92). -/
def rdInstr : Reg → Instr
  | .id => .rdId
  | .cmd => .rdCmd
  | .status => .rdStatus
  | .cfg => .rdCfg
  | .key0 => .rdKey0
  | .key1 => .rdKey1
  | .msg => .rdMsg
  | .len => .rdLen
  | .result => .rdResult
  | .const0 => .rdConst0
  | .const1 => .rdConst1
  | .const2 => .rdConst2
  | .const3 => .rdConst3

/-- The write of a register (R93–R99). -/
def wrInstr : Reg → Word → Instr
  | .id, v => .wrId v
  | .cmd, v => .wrCmd v
  | .status, v => .wrStatus v
  | .cfg, v => .wrCfg v
  | .key0, v => .wrKey0 v
  | .key1, v => .wrKey1 v
  | .msg, v => .wrMsg v
  | .len, v => .wrLen v
  | .result, v => .wrResult v
  | .const0, v => .wrConst0 v
  | .const1, v => .wrConst1 v
  | .const2, v => .wrConst2 v
  | .const3, v => .wrConst3 v

/-- The instruction an access to a register is. -/
def Access.instrOn (a : Access) (r : Reg) : Instr :=
  match a with
  | .rd _ _ => rdInstr r
  | .wr _ _ v => wrInstr r v

/-- R43: the access is refused as a bus error. -/
def busErrorAccess (a : Access) : Bool :=
  a.width != 8 || a.off % 8 != 0 || a.off == 0x68 || a.off == 0x70 || a.off == 0x78

/-- R83, R93: the dispatch of an access, the bus check first (R119). An offset outside the block is not addressed to the
engine (R37, R38; log entry 4). -/
def decodeBus (a : Access) : Except BusReject Instr :=
  if a.off < 128 then
    if busErrorAccess a then .error (.busError a.off)
    else
      match regAt a.off with
      | some r => .ok (a.instrOn r)
      | none => .error (.busError a.off)
  else .error (.outsideBlock a.off)

/-- The table row a command is (R56). -/
def Command.toInstr : Command → Instr
  | .nop => .nop
  | .init => .init
  | .absorb => .absorb
  | .tail n => .tail n
  | .finalize => .finalize
  | .abort => .abort

/-- The decoder over both formats of R53. -/
def decode : Encoded → Except Reject Instr
  | .cmd w =>
    match decodeCmd w with
    | .ok c => .ok c.toInstr
    | .error opc => .error (.illegalCommand opc)
  | .bus a =>
    match decodeBus a with
    | .ok i => .ok i
    | .error r => .error (.bus r)

/-- R56: the word of a command, OPC with NB at bit 8. -/
def cmdWord : Command → Word
  | .nop => 0x0000000000000000
  | .init => 0x0000000000000001
  | .absorb => 0x0000000000000002
  | .tail n => 0x0000000000000003 ||| (n.setWidth 64 <<< 8)
  | .finalize => 0x0000000000000004
  | .abort => 0x0000000000000005

/-- R38: the offset of a register. -/
def Reg.offset : Reg → Nat
  | .id => 0x00
  | .cmd => 0x08
  | .status => 0x10
  | .cfg => 0x18
  | .key0 => 0x20
  | .key1 => 0x28
  | .msg => 0x30
  | .len => 0x38
  | .result => 0x40
  | .const0 => 0x48
  | .const1 => 0x50
  | .const2 => 0x58
  | .const3 => 0x60

/-- R61: `RD r`, an 8-byte read of a register. -/
def Reg.read (r : Reg) : Access := .rd 8 r.offset

/-- R61: `WR r, v`, an 8-byte write of a register. -/
def Reg.write (r : Reg) (v : Word) : Access := .wr 8 r.offset v

/-- The encoding of an instruction: a command's word (R56), or the access of R61. -/
def encode : Instr → Encoded
  | .nop => .cmd (cmdWord .nop)
  | .init => .cmd (cmdWord .init)
  | .absorb => .cmd (cmdWord .absorb)
  | .tail n => .cmd (cmdWord (.tail n))
  | .finalize => .cmd (cmdWord .finalize)
  | .abort => .cmd (cmdWord .abort)
  | .rdId => .bus (Reg.id.read)
  | .rdCmd => .bus (Reg.cmd.read)
  | .rdStatus => .bus (Reg.status.read)
  | .rdCfg => .bus (Reg.cfg.read)
  | .rdKey0 => .bus (Reg.key0.read)
  | .rdKey1 => .bus (Reg.key1.read)
  | .rdMsg => .bus (Reg.msg.read)
  | .rdLen => .bus (Reg.len.read)
  | .rdResult => .bus (Reg.result.read)
  | .rdConst0 => .bus (Reg.const0.read)
  | .rdConst1 => .bus (Reg.const1.read)
  | .rdConst2 => .bus (Reg.const2.read)
  | .rdConst3 => .bus (Reg.const3.read)
  | .wrCmd w => .bus (Reg.cmd.write w)
  | .wrCfg v => .bus (Reg.cfg.write v)
  | .wrKey0 v => .bus (Reg.key0.write v)
  | .wrKey1 v => .bus (Reg.key1.write v)
  | .wrMsg v => .bus (Reg.msg.write v)
  | .wrId v => .bus (Reg.id.write v)
  | .wrStatus v => .bus (Reg.status.write v)
  | .wrLen v => .bus (Reg.len.write v)
  | .wrResult v => .bus (Reg.result.write v)
  | .wrConst0 v => .bus (Reg.const0.write v)
  | .wrConst1 v => .bus (Reg.const1.write v)
  | .wrConst2 v => .bus (Reg.const2.write v)
  | .wrConst3 v => .bus (Reg.const3.write v)

/-- The host access by which an encoding reaches the engine: a command word is written to CMD (R53, R94). -/
def Encoded.toAccess : Encoded → Access
  | .cmd w => Reg.cmd.write w
  | .bus a => a

/-- A BUS row's table word: bits 6:0 are the offset, the table's mask 0x7f. The table gives the direction no bit: bit 7 is
the model's own direction bit, 0 for a read and 1 for a write, and the write data is the zero word (log entry 12). -/
def busAccessOfTableWord (w : Nat) : Access :=
  if w / 128 % 2 = 0 then .rd 8 (w % 128) else .wr 8 (w % 128) 0

/-- A table word as an encoding: 64 bits are a command word, fewer are a BUS row's. -/
def encodedOfTableWord (nbits w : Nat) : Encoded :=
  if nbits = 64 then .cmd (BitVec.ofNat 64 w) else .bus (busAccessOfTableWord w)

/-- The instruction the decoder reads from an opcode-table word. -/
def decodeTableWord (nbits w : Nat) : Option Instr :=
  match decode (encodedOfTableWord nbits w) with
  | .ok i => some i
  | .error _ => none

end Sys2Proof
end

