-- ==== Sys2Proof/Config.lean ====
section
/-! DEFINITION. What the platform fixes and the spec leaves open (92_eei_decisions.md D2; 93_implementation_defined.md I10,
I11). Each is an opaque constant: no proof can see its value. -/

namespace Sys2Proof

/-- 20_memory.md R37: which 128-byte frame of the bus the register block occupies. -/
opaque Config.engineFrame : Nat

/-- 20_memory.md R37: ENGINE_BASE, an open parameter that is a multiple of 128. -/
def Config.engineBase : Nat := 128 * Config.engineFrame

/-- 70_reset_and_hazards.md R127: whether the host sees a bus response for an access that coincides with RESET, and which, is
the platform parameter BUS_ERROR_RESPONSE (log entry 5). -/
opaque Config.busErrorResponse : Access → Option Response

end Sys2Proof
end

