-- ==== Sys2Proof/Machine/State.lean ====
section
/-! DEFINITION. The machine's state as plain data (10_state.md R17), the reasons a step can stop, and the reset state (R35). -/

namespace Sys2Proof.Machine

/-- R18: the four internal state words V[0..3]. -/
structure V4 where
  v0 : Word
  v1 : Word
  v2 : Word
  v3 : Word
deriving DecidableEq, Repr

/-- R24: STATUS.PHASE. The values 5–7 are never produced (log entry 7). -/
inductive Phase where
  | idle | absorb | tailed | done | error
deriving DecidableEq, Repr

/-- R25: STATUS.ERR. The codes 6–15 are never produced (log entry 7). -/
inductive Err where
  | none | illegalCmd | sequence | missingInput | zeroRounds | locked
deriving DecidableEq, Repr

/-- R17: the engine's complete state. -/
structure Engine where
  /-- R18 -/
  v : V4
  /-- R20 -/
  key0 : Word
  /-- R20 -/
  key1 : Word
  /-- R22: CFG[15:0] -/
  cfgC : BitVec 16
  /-- R22: CFG[31:16] -/
  cfgD : BitVec 16
  /-- R23 -/
  msg : Word
  /-- R24: STATUS[2:0] -/
  phase : Phase
  /-- R25: STATUS[11:8] -/
  err : Err
  /-- R26: STATUS[23:16] -/
  errInfo : Byte
  /-- R28 -/
  len : Word
  /-- R29 -/
  result : Word
deriving DecidableEq, Repr

/-- What can reach the engine from outside: a host access (R61), or RESET, with the access that coincides with it if there
is one (R127, R128). -/
inductive Event where
  | access (a : Access)
  | reset (coinciding : Option Access)
deriving DecidableEq, Repr

/-- The machine: the engine (R17), and the model's own two fields at its boundary with the host: the events still to come,
oldest first (R47; log entry 1), and the bus response of the last access (log entry 2). -/
structure State where
  engine : Engine
  inbox : List Event
  response : Option Response
deriving DecidableEq, Repr

/-- Why the machine stops. -/
inductive Fault where
  /-- Raised by the step on an access whose offset lies outside the 128-byte block: it is not addressed to the engine, and
  what answers there is left to the platform (R37, R38; log entry 4). Safe: the model stops where a platform goes on. -/
  | outsideBlock (off : Nat)
deriving DecidableEq, Repr

/-- Why an instruction has no meaning. -/
inductive Refusal where
  /-- Raised by an arm of `exec` whose instruction is not modelled yet; no arm is. Safe. -/
  | notModelled (mnemonic : String)
deriving DecidableEq, Repr

/-- R35, R127: the reset value of every piece of the engine's state. -/
def Engine.reset : Engine where
  v := ⟨0, 0, 0, 0⟩
  key0 := 0
  key1 := 0
  cfgC := 2
  cfgD := 4
  msg := 0
  phase := .idle
  err := .none
  errInfo := 0
  len := 0
  result := 0

/-- The machine right after reset, with no host access yet to come and none answered (log entries 1 and 2). -/
def State.reset : State where
  engine := Engine.reset
  inbox := []
  response := Option.none

end Sys2Proof.Machine
end

