-- ==== Sys2Proof/Machine/Operands.lean ====
section
/-! DEFINITION. Operand forms: byte sequences as words (00_scope.md R12), byte lanes and bus addresses (20_memory.md R37,
R41), CFG's fields (10_state.md R22), the round counts, and TAIL's block (42_commands.md R106). -/

namespace Sys2Proof.Machine

/-- R12: LE64, the first byte least significant. A list shorter than 8 bytes leaves the upper bytes 0 (R110). -/
def le64 : List Byte → Word
  | [] => 0
  | b :: bs => b.setWidth 64 ||| (le64 bs <<< 8)

/-- R12: BE64, the first byte most significant. -/
def be64 (bs : List Byte) : Word := le64 bs.reverse

/-- R8, R41: byte j of a word, bits [8j+7:8j]. -/
def lane (w : Word) (j : Nat) : Byte := w.extractLsb' (8 * j) 8

/-- R37, R41: the bus address of an offset of the block. -/
def busAddress (off : Nat) : Nat := Config.engineBase + off

/-- R37: the offset of a bus address, if it lies in the 128-byte block. -/
def offsetOf (addr : Nat) : Option Nat :=
  if Config.engineBase ≤ addr ∧ addr < Config.engineBase + 128 then some (addr - Config.engineBase) else none

/-- R22, R95: CFG.C is bits 15:0 of the word written. -/
def cfgCOf (v : Word) : BitVec 16 := v.extractLsb' 0 16

/-- R22, R95: CFG.D is bits 31:16 of the word written. -/
def cfgDOf (v : Word) : BitVec 16 := v.extractLsb' 16 16

/-- R87: the word RD CFG returns. -/
def Engine.cfgWord (e : Engine) : Word := e.cfgC.setWidth 64 ||| (e.cfgD.setWidth 64 <<< 16)

/-- R34: c, read from CFG.C at the moment a command runs. -/
def Engine.rounds (e : Engine) : Nat := e.cfgC.toNat

/-- R34: d, read from CFG.D at the moment a command runs. -/
def Engine.finalRounds (e : Engine) : Nat := e.cfgD.toNat

/-- R106: the total message length at TAIL n, (LEN + n) mod 2^64, with n zero-extended (R54). -/
def Engine.tailLength (e : Engine) (n : BitVec 3) : Word := e.len + n.setWidth 64

/-- R106: mask = (1 << (8*n)) - 1. -/
def tailMask (n : BitVec 3) : Word := ((1 : Word) <<< (8 * n.toNat)) - 1

/-- R106: the final block, (MSG & mask) | ((L mod 256) << 56). -/
def Engine.tailBlock (e : Engine) (n : BitVec 3) : Word :=
  (e.msg &&& tailMask n) ||| ((e.tailLength n % 256) <<< 56)

end Sys2Proof.Machine
end

