-- ==== Sys2Proof/Machine/Datapath.lean ====
section
/-! DEFINITION. The pure functions of the datapath (40_datapath.md R65–R82), in the spec's order, with the reference
function SipHash. No function sets a flag (R31). -/

namespace Sys2Proof.Machine

/-- R66: C0, the chunk "somepseu". -/
def c0 : Word := 0x736f6d6570736575

/-- R66: C1, the chunk "dorandom". -/
def c1 : Word := 0x646f72616e646f6d

/-- R66: C2, the chunk "lygenera". -/
def c2 : Word := 0x6c7967656e657261

/-- R66: C3, the chunk "tedbytes". -/
def c3 : Word := 0x7465646279746573

/-- R67 -/
def add64 (a b : Word) : Word := a + b

/-- R68 -/
def xor64 (a b : Word) : Word := a ^^^ b

/-- R69: rotl(a, n) = ((a << n) | (a >> (64 − n))) mod 2^64, for 0 < n < 64. -/
def rotl (a : Word) (n : Nat) : Word := (a <<< n) ||| (a >>> (64 - n))

/-- R70: one SipRound, the steps in the order the rule lists them. -/
def sipRound (v : V4) : V4 :=
  let v0 := add64 v.v0 v.v1
  let v2 := add64 v.v2 v.v3
  let v1 := rotl v.v1 13
  let v3 := rotl v.v3 16
  let v1 := xor64 v1 v0
  let v3 := xor64 v3 v2
  let v0 := rotl v0 32
  let v2 := add64 v2 v1
  let v0 := add64 v0 v3
  let v1 := rotl v1 17
  let v3 := rotl v3 21
  let v1 := xor64 v1 v2
  let v3 := xor64 v3 v0
  let v2 := rotl v2 32
  ⟨v0, v1, v2, v3⟩

/-- R71: SipRound applied exactly n times. -/
def sipRounds : V4 → Nat → V4
  | v, 0 => v
  | v, n + 1 => sipRounds (sipRound v) n

/-- R72: Init(k0, k1). -/
def initState (k0 k1 : Word) : V4 :=
  ⟨xor64 k0 c0, xor64 k1 c1, xor64 k0 c2, xor64 k1 c3⟩

/-- R73: N(L) = floor(L/8) + 1. -/
def blockCount (len : Nat) : Nat := len / 8 + 1

/-- R74: m[i] = LE64(B[8i], …, B[8i+7]). -/
def fullBlock (b : List Byte) (i : Nat) : Word := le64 ((b.drop (8 * i)).take 8)

/-- R74: the floor(L/8) full blocks, in order. -/
def fullBlocks (b : List Byte) : List Word := (List.range (b.length / 8)).map (fullBlock b)

/-- R75: the L mod 8 trailing bytes. -/
def trailing (b : List Byte) : List Byte := b.drop (8 * (b.length / 8))

/-- R75, R80: the final block, the trailing bytes with the tag L mod 256 in bits 63:56. -/
def finalBlock (b : List Byte) : Word :=
  le64 (trailing b) ||| (BitVec.ofNat 64 (b.length % 256) <<< 56)

/-- R73: Encode(B). -/
def encodeMessage (b : List Byte) : List Word := fullBlocks b ++ [finalBlock b]

/-- R76: v3 ← v3 ^ m; c rounds; v0 ← v0 ^ m. -/
def compressBlock (v : V4) (m : Word) (c : Nat) : V4 :=
  let v := sipRounds { v with v3 := xor64 v.v3 m } c
  { v with v0 := xor64 v.v0 m }

/-- R77: CompressBlock over the blocks, strictly in order. -/
def compress (v : V4) (blocks : List Word) (c : Nat) : V4 :=
  blocks.foldl (fun v m => compressBlock v m c) v

/-- R78: the XOR of the four words. -/
def V4.output (v : V4) : Word := xor64 (xor64 (xor64 v.v0 v.v1) v.v2) v.v3

/-- R78: v2 ← v2 ^ 0xFF; d rounds; the output word and the state left behind. -/
def finalizeState (v : V4) (d : Nat) : Word × V4 :=
  let v := sipRounds { v with v2 := xor64 v.v2 0xFF } d
  (v.output, v)

/-- R79: SipHash(k0, k1, c, d, B). -/
def sipHash (k0 k1 : Word) (c d : Nat) (b : List Byte) : Word :=
  (finalizeState (compress (initState k0 k1) (encodeMessage b) c) d).1

/-- R79, R82: Compute, where an absent content raises MissingInput and returns no value. -/
def compute (k0 k1 : Word) (c d : Nat) (content : Option (List Byte)) : Except ReferenceError Word :=
  match content with
  | some b => .ok (sipHash k0 k1 c d b)
  | none => .error .missingInput

end Sys2Proof.Machine
end

