-- ==== Sys2Proof/Machine/Flags.lean ====
section
/-! DEFINITION. The STATUS fields as the host reads them (10_state.md R24–R27, 41_register_access.md R86). The engine has no
other flag, and no arithmetic sets one (R31). -/

namespace Sys2Proof.Machine

/-- R24: the 3-bit value of PHASE. -/
def Phase.code : Phase → BitVec 3
  | .idle => 0
  | .absorb => 1
  | .tailed => 2
  | .done => 3
  | .error => 4

/-- R25: the 4-bit value of ERR. -/
def Err.code : Err → BitVec 4
  | .none => 0
  | .illegalCmd => 1
  | .sequence => 2
  | .missingInput => 3
  | .zeroRounds => 4
  | .locked => 5

/-- R86: the word RD STATUS returns. Its reserved bits are 0 (R27). -/
def Engine.statusWord (e : Engine) : Word :=
  e.phase.code.setWidth 64 ||| (e.err.code.setWidth 64 <<< 8) ||| (e.errInfo.setWidth 64 <<< 16)

end Sys2Proof.Machine
end

