-- ==== Sys2Proof/Machine/Ops.lean ====
section
/-! DEFINITION. The operations every meaning is written over: reading a register, raising an engine error and recovering from
one, the configuration lock, and completing a bus access. -/

namespace Sys2Proof.Machine

/-- R19: the value of ID. -/
def idValue : Word := 0x0000000153495048

/-- R84–R92: the value a read of a register returns. CMD, KEY0 and KEY1 are write-only and read 0. -/
def Engine.readReg (e : Engine) : Reg → Word
  | .id => idValue
  | .cmd => 0
  | .status => e.statusWord
  | .cfg => e.cfgWord
  | .key0 => 0
  | .key1 => 0
  | .msg => e.msg
  | .len => e.len
  | .result => e.result
  | .const0 => c0
  | .const1 => c1
  | .const2 => c2
  | .const3 => c3

/-- R41: the register byte at a bus address, where a register is. For the write-only CMD, KEY0 and KEY1 it is a byte of what
they read as, 0 (log entry 13). -/
def Engine.busByte (e : Engine) (addr : Nat) : Option Byte :=
  match offsetOf addr with
  | none => none
  | some off =>
    match regAt (8 * (off / 8)) with
    | none => none
    | some r => some (lane (e.readReg r) (off % 8))

/-- R115: raise EngineError(code, info). Outside ERROR it records the code and the information and enters ERROR; in ERROR it
changes nothing, so the first error is kept. There is no control transfer. -/
def Engine.raise (code : Err) (info : Byte) (e : Engine) : Engine :=
  if e.phase = .error then e else { e with err := code, errInfo := info, phase := .error }

/-- R104, R108, R117: what INIT and ABORT share, the way out of ERROR: LEN, RESULT, ERR and ERR_INFO are cleared, V is set
and the phase entered. No state saved at the error is restored. -/
def Engine.restart (v : V4) (phase : Phase) (e : Engine) : Engine :=
  { e with v := v, len := 0, result := 0, err := .none, errInfo := 0, phase := phase }

/-- R100: Locked() = (PHASE == ABSORB or PHASE == TAILED). -/
def Engine.locked (e : Engine) : Bool := e.phase == .absorb || e.phase == .tailed

/-- R95–R97: a write the lock guards; while locked it raises LOCKED with the register's offset, and stores nothing. -/
def Engine.guardedWrite (off : Byte) (store : Engine → Engine) (e : Engine) : Engine :=
  if e.locked then e.raise .locked off else store e

/-- R83: a read completes with the register's value and changes no state of the engine (R45). -/
def answer (r : Reg) (s : State) : Host.Outcome State Fault Refusal :=
  .next { s with response := some (.data (s.engine.readReg r)) }

/-- R93, R109, R120: a write completes with its effect on the engine and an OK response, an engine error included. -/
def commit (f : Engine → Engine) (s : State) : Host.Outcome State Fault Refusal :=
  .next { s with engine := f s.engine, response := some .ok }

end Sys2Proof.Machine
end

