-- ==== Sys2Proof/Machine/Reads.lean ====
section
/-! DEFINITION. The host's register reads (41_register_access.md R83–R92), one meaning per register. -/

namespace Sys2Proof.Machine

/-- R84: `RD ID`, offset 0x00. -/
def execRdId (s : State) : Host.Outcome State Fault Refusal := answer .id s

/-- R85: `RD CMD`, offset 0x08. -/
def execRdCmd (s : State) : Host.Outcome State Fault Refusal := answer .cmd s

/-- R86: `RD STATUS`, offset 0x10. -/
def execRdStatus (s : State) : Host.Outcome State Fault Refusal := answer .status s

/-- R87: `RD CFG`, offset 0x18. -/
def execRdCfg (s : State) : Host.Outcome State Fault Refusal := answer .cfg s

/-- R88: `RD KEY0`, offset 0x20. -/
def execRdKey0 (s : State) : Host.Outcome State Fault Refusal := answer .key0 s

/-- R88: `RD KEY1`, offset 0x28. -/
def execRdKey1 (s : State) : Host.Outcome State Fault Refusal := answer .key1 s

/-- R89: `RD MSG`, offset 0x30. -/
def execRdMsg (s : State) : Host.Outcome State Fault Refusal := answer .msg s

/-- R90: `RD LEN`, offset 0x38. -/
def execRdLen (s : State) : Host.Outcome State Fault Refusal := answer .len s

/-- R91: `RD RESULT`, offset 0x40. -/
def execRdResult (s : State) : Host.Outcome State Fault Refusal := answer .result s

/-- R92: `RD CONST0`, offset 0x48. -/
def execRdConst0 (s : State) : Host.Outcome State Fault Refusal := answer .const0 s

/-- R92: `RD CONST1`, offset 0x50. -/
def execRdConst1 (s : State) : Host.Outcome State Fault Refusal := answer .const1 s

/-- R92: `RD CONST2`, offset 0x58. -/
def execRdConst2 (s : State) : Host.Outcome State Fault Refusal := answer .const2 s

/-- R92: `RD CONST3`, offset 0x60. -/
def execRdConst3 (s : State) : Host.Outcome State Fault Refusal := answer .const3 s

end Sys2Proof.Machine
end

