-- ==== Sys2Proof/Machine/Commands.lean ====
section
/-! DEFINITION. The commands (42_commands.md R102–R108): each one's effect on the engine, and its meaning as an instruction. -/

namespace Sys2Proof.Machine

/-- R104: ZERO_ROUNDS is written directly, even in ERROR (R115). -/
def Engine.zeroRounds (e : Engine) : Engine :=
  { e with err := .zeroRounds, errInfo := 0x01, phase := .error }

/-- R104: INIT. -/
def Engine.init (e : Engine) : Engine :=
  if e.cfgC = 0 ∨ e.cfgD = 0 then e.zeroRounds
  else e.restart (initState e.key0 e.key1) .absorb

/-- R105: ABSORB. -/
def Engine.absorb (e : Engine) : Engine :=
  if e.phase = .error then e
  else if e.phase ≠ .absorb then e.raise .sequence 0x02
  else { e with v := compressBlock e.v e.msg e.rounds, len := e.len + 8 }

/-- R106: TAIL n. -/
def Engine.tail (n : BitVec 3) (e : Engine) : Engine :=
  if e.phase = .error then e
  else if e.phase ≠ .absorb then e.raise .sequence 0x03
  else
    { e with
      v := compressBlock e.v (e.tailBlock n) e.rounds
      len := e.tailLength n
      phase := .tailed }

/-- R107: FINALIZE. -/
def Engine.finalize (e : Engine) : Engine :=
  if e.phase = .error then e
  else if e.phase = .idle ∨ e.phase = .absorb then e.raise .missingInput 0x04
  else if e.phase = .done then e.raise .sequence 0x04
  else
    { e with
      v := (finalizeState e.v e.finalRounds).2
      result := (finalizeState e.v e.finalRounds).1
      phase := .done }

/-- R108: ABORT. -/
def Engine.abort (e : Engine) : Engine := e.restart ⟨0, 0, 0, 0⟩ .idle

/-- R102: the case of a legal word; NOP has no effect (R103). -/
def Engine.runCommand (c : Command) (e : Engine) : Engine :=
  match c with
  | .nop => e
  | .init => e.init
  | .absorb => e.absorb
  | .tail n => e.tail n
  | .finalize => e.finalize
  | .abort => e.abort

/-- R102: ExecCmd(w). An illegal word is ignored in ERROR and raises ILLEGAL_CMD with w[7:0] otherwise. -/
def Engine.execCmd (w : Word) (e : Engine) : Engine :=
  match decodeCmd w with
  | .error opc => if e.phase = .error then e else e.raise .illegalCmd opc
  | .ok c => e.runCommand c

/-- R103: `CMD NOP`. -/
def execNop (s : State) : Host.Outcome State Fault Refusal := commit (fun e => e) s

/-- R104: `CMD INIT`. -/
def execInit (s : State) : Host.Outcome State Fault Refusal := commit Engine.init s

/-- R105: `CMD ABSORB`. -/
def execAbsorb (s : State) : Host.Outcome State Fault Refusal := commit Engine.absorb s

/-- R106: `CMD TAIL n`. -/
def execTail (n : BitVec 3) (s : State) : Host.Outcome State Fault Refusal := commit (Engine.tail n) s

/-- R107: `CMD FINALIZE`. -/
def execFinalize (s : State) : Host.Outcome State Fault Refusal := commit Engine.finalize s

/-- R108: `CMD ABORT`. -/
def execAbort (s : State) : Host.Outcome State Fault Refusal := commit Engine.abort s

end Sys2Proof.Machine
end

