-- ==== Sys2Proof/Machine/Writes.lean ====
section
/-! DEFINITION. The host's register writes (41_register_access.md R93–R99), one meaning per register. -/

namespace Sys2Proof.Machine

/-- R94: `WR CMD, w` performs the command the word is. -/
def execWrCmd (w : Word) (s : State) : Host.Outcome State Fault Refusal := commit (Engine.execCmd w) s

/-- R95: `WR CFG, v`. Both fields are written together and v[63:32] is ignored. -/
def execWrCfg (v : Word) (s : State) : Host.Outcome State Fault Refusal :=
  commit (Engine.guardedWrite 0x18 fun e => { e with cfgC := cfgCOf v, cfgD := cfgDOf v }) s

/-- R96: `WR KEY0, v`. -/
def execWrKey0 (v : Word) (s : State) : Host.Outcome State Fault Refusal :=
  commit (Engine.guardedWrite 0x20 fun e => { e with key0 := v }) s

/-- R97: `WR KEY1, v`. -/
def execWrKey1 (v : Word) (s : State) : Host.Outcome State Fault Refusal :=
  commit (Engine.guardedWrite 0x28 fun e => { e with key1 := v }) s

/-- R98: `WR MSG, v`, in every phase. -/
def execWrMsg (v : Word) (s : State) : Host.Outcome State Fault Refusal :=
  commit (fun e => { e with msg := v }) s

/-- R99: `WR ID` has no effect and responds OK. -/
def execWrId (_ : Word) (s : State) : Host.Outcome State Fault Refusal := commit (fun e => e) s

/-- R99: `WR STATUS` has no effect and responds OK. -/
def execWrStatus (_ : Word) (s : State) : Host.Outcome State Fault Refusal := commit (fun e => e) s

/-- R99: `WR LEN` has no effect and responds OK. -/
def execWrLen (_ : Word) (s : State) : Host.Outcome State Fault Refusal := commit (fun e => e) s

/-- R99: `WR RESULT` has no effect and responds OK. -/
def execWrResult (_ : Word) (s : State) : Host.Outcome State Fault Refusal := commit (fun e => e) s

/-- R99: `WR CONST0` has no effect and responds OK. -/
def execWrConst0 (_ : Word) (s : State) : Host.Outcome State Fault Refusal := commit (fun e => e) s

/-- R99: `WR CONST1` has no effect and responds OK. -/
def execWrConst1 (_ : Word) (s : State) : Host.Outcome State Fault Refusal := commit (fun e => e) s

/-- R99: `WR CONST2` has no effect and responds OK. -/
def execWrConst2 (_ : Word) (s : State) : Host.Outcome State Fault Refusal := commit (fun e => e) s

/-- R99: `WR CONST3` has no effect and responds OK. -/
def execWrConst3 (_ : Word) (s : State) : Host.Outcome State Fault Refusal := commit (fun e => e) s

end Sys2Proof.Machine
end

