-- ==== Sys2Proof/Machine/Dispatch.lean ====
section
/-! DEFINITION. One arm per constructor of Instr: the meaning of every row of opcode_table.json. -/

namespace Sys2Proof.Machine

def exec (i : Instr) (s : State) : Host.Outcome State Fault Refusal :=
  match i with
  | .nop => Sys2Proof.Machine.execNop s
  | .init => Sys2Proof.Machine.execInit s
  | .absorb => Sys2Proof.Machine.execAbsorb s
  | .tail n => Sys2Proof.Machine.execTail n s
  | .finalize => Sys2Proof.Machine.execFinalize s
  | .abort => Sys2Proof.Machine.execAbort s
  | .rdId => Sys2Proof.Machine.execRdId s
  | .rdCmd => Sys2Proof.Machine.execRdCmd s
  | .rdStatus => Sys2Proof.Machine.execRdStatus s
  | .rdCfg => Sys2Proof.Machine.execRdCfg s
  | .rdKey0 => Sys2Proof.Machine.execRdKey0 s
  | .rdKey1 => Sys2Proof.Machine.execRdKey1 s
  | .rdMsg => Sys2Proof.Machine.execRdMsg s
  | .rdLen => Sys2Proof.Machine.execRdLen s
  | .rdResult => Sys2Proof.Machine.execRdResult s
  | .rdConst0 => Sys2Proof.Machine.execRdConst0 s
  | .rdConst1 => Sys2Proof.Machine.execRdConst1 s
  | .rdConst2 => Sys2Proof.Machine.execRdConst2 s
  | .rdConst3 => Sys2Proof.Machine.execRdConst3 s
  | .wrCmd w => Sys2Proof.Machine.execWrCmd w s
  | .wrCfg v => Sys2Proof.Machine.execWrCfg v s
  | .wrKey0 v => Sys2Proof.Machine.execWrKey0 v s
  | .wrKey1 v => Sys2Proof.Machine.execWrKey1 v s
  | .wrMsg v => Sys2Proof.Machine.execWrMsg v s
  | .wrId v => Sys2Proof.Machine.execWrId v s
  | .wrStatus v => Sys2Proof.Machine.execWrStatus v s
  | .wrLen v => Sys2Proof.Machine.execWrLen v s
  | .wrResult v => Sys2Proof.Machine.execWrResult v s
  | .wrConst0 v => Sys2Proof.Machine.execWrConst0 v s
  | .wrConst1 v => Sys2Proof.Machine.execWrConst1 v s
  | .wrConst2 v => Sys2Proof.Machine.execWrConst2 v s
  | .wrConst3 v => Sys2Proof.Machine.execWrConst3 v s

end Sys2Proof.Machine
end

