-- ==== Sys2Proof/Machine/Fetch.lean ====
section
/-! DEFINITION. How an event reaches the engine: the queue of the model's boundary (log entry 1), the refusal of an access
(R43), RESET (R127), and placing an opcode-table word where the next step takes it. -/

namespace Sys2Proof.Machine

/-- R47: the oldest event, and the state with it taken. -/
def nextEvent (s : State) : Option (Event × State) :=
  match s.inbox with
  | [] => none
  | ev :: rest => some (ev, { s with inbox := rest })

/-- R43, R120: a refused access changes no state of the engine and answers with the bus error. An access outside the block
stops the model (log entry 4). -/
def rejectAccess (r : BusReject) (s : State) : Host.Outcome State Fault Refusal :=
  match r with
  | .busError off => .next { s with response := some (.busError off) }
  | .outsideBlock off => .fault (.outsideBlock off)

/-- R127: RESET sets every state element to its reset value; the coinciding access has no effect, and its response, if any,
is the platform's (log entry 5). -/
def applyReset (coinciding : Option Access) (s : State) : Host.Outcome State Fault Refusal :=
  .next { s with engine := Engine.reset, response := coinciding.bind Config.busErrorResponse }

/-- R30, R126: with no access pending the engine keeps its state (log entry 3). -/
def idle (s : State) : Host.Outcome State Fault Refusal := .next s

/-- An opcode-table word as the host's next access (log entry 12). -/
def placeTableWord (s : State) (nbits w : Nat) : State :=
  { s with inbox := .access (encodedOfTableWord nbits w).toAccess :: s.inbox }

end Sys2Proof.Machine
end

