-- ==== Sys2Proof/Machine/Step.lean ====
section
/-! DEFINITION. One step: the oldest pending event, with all its effects (R47, R109). -/

namespace Sys2Proof.Machine

/-- R47: take the oldest event and perform it: a RESET, an accepted access (the instruction it decodes to), or a refused one. -/
def step (s : State) : Host.Outcome State Fault Refusal :=
  match nextEvent s with
  | none => idle s
  | some (.reset coinciding, t) => applyReset coinciding t
  | some (.access a, t) =>
    match decodeBus a with
    | .ok i => exec i t
    | .error r => rejectAccess r t

/-- The instruction of an opcode-table word, placed at the front of the inbox, where `step` takes its next access. -/
def State.withFetchWord (s : State) (nbits w : Nat) : State := placeTableWord s nbits w

end Sys2Proof.Machine
end

