-- ==== Sys2Proof/Machine/HostProgram.lean ====
section
/-! DEFINITION. The host's programs as sequences of accesses (30_encoding.md R61–R63): the abbreviation `CMD <mnemonic>`, the
pseudo-instructions, and the Compute protocol (42_commands.md R110). -/

namespace Sys2Proof.Machine.HostProgram

/-- R62: `CMD <mnemonic>` abbreviates `WR CMD, <word>`. -/
def cmd (c : Command) : Access := Reg.cmd.write (cmdWord c)

/-- R63: `SETKEY k0, k1`. -/
def setKey (k0 k1 : Word) : List Access := [Reg.key0.write k0, Reg.key1.write k1]

/-- R63: `SETCFG c, d` writes (c & 0xFFFF) | (d & 0xFFFF) << 16. -/
def setCfg (c d : Word) : List Access := [Reg.cfg.write ((c &&& 0xFFFF) ||| ((d &&& 0xFFFF) <<< 16))]

/-- R63, R101: `NEW k0, k1, c, d`; c and d omitted mean 2 and 4. -/
def new (k0 k1 : Word) (c : Word := 2) (d : Word := 4) : List Access := setKey k0 k1 ++ setCfg c d

/-- R63: `BLOCK m`. -/
def block (m : Word) : List Access := [Reg.msg.write m, cmd .absorb]

/-- R63: `LAST n, m`. -/
def last (n : BitVec 3) (m : Word) : List Access := [Reg.msg.write m, cmd (.tail n)]

/-- R63: `HASHOUT -> r`. -/
def hashOut : List Access := [cmd .finalize, Reg.result.read]

/-- R110: NB of the message's last block, r = L mod 8. -/
def tailCount (b : List Byte) : BitVec 3 := BitVec.ofNat 3 (b.length % 8)

/-- R110, R111: the Compute protocol from `CMD INIT` to `CMD FINALIZE`, where `m` is the word written to MSG for the last
block; its upper bytes may be anything. -/
def computeCore (b : List Byte) (m : Word) : List Access :=
  [cmd .init] ++ (fullBlocks b).flatMap block ++ last (tailCount b) m ++ [cmd .finalize]

/-- R110: the whole Compute protocol for the loaded key and counts, the trailing bytes zero-extended. -/
def compute (b : List Byte) : List Access :=
  computeCore b (le64 (trailing b)) ++ [Reg.status.read, Reg.result.read]

/-- A host program as events with no RESET among them. -/
def events (p : List Access) : List Event := p.map Event.access

end Sys2Proof.Machine.HostProgram
end

