-- ==== Sys2Proof/Safety.lean ====
section
/-! DEFINITION. The terms claims are stated in: the invariants of R36, the trusted result of R135, the shapes of a register
access and of a command, the phase table of R112, and the two secrets (the key and V). A run is safe when every access it
makes lies in the register block; then no step faults. -/

namespace Sys2Proof.Safety

open Sys2Proof.Machine

/-- 10_state.md R36: the invariants of every reachable state, in the rule's order. -/
structure EngineInv (e : Engine) : Prop where
  phase_le_four : e.phase.code.toNat ≤ 4
  no_error_iff : e.err = .none ↔ e.phase ≠ .error
  no_error_info : e.err = .none → e.errInfo = 0
  absorb_len_multiple : e.phase = .absorb → e.len.toNat % 8 = 0
  open_rounds_positive : e.phase = .absorb ∨ e.phase = .tailed → 1 ≤ e.cfgC.toNat ∧ 1 ≤ e.cfgD.toNat
  idle_cleared : e.phase = .idle → e.v = ⟨0, 0, 0, 0⟩ ∧ e.len = 0 ∧ e.result = 0
  result_zero : e.phase = .idle ∨ e.phase = .absorb ∨ e.phase = .tailed → e.result = 0

/-- R36 of the whole machine. -/
def Invariants (s : State) : Prop := EngineInv s.engine

/-- 70_reset_and_hazards.md R135: a RESULT read is trustworthy only when STATUS reads 0x3. -/
def ResultTrusted (e : Engine) : Prop := e.statusWord = 0x3

/-- An event that cannot make the step fault: RESET, or an access in the block (R37). -/
def eventInBlock : Event → Bool
  | .access a => a.off < 128
  | .reset _ => true

/-- A safe state: every pending event is in the block. -/
def Safe (s : State) : Prop := ∀ ev ∈ s.inbox, eventInBlock ev = true

/-- An 8-byte read of the register at `off` returns `val` and changes no state; a read there of another width is a bus error
(R43, R83). The instruction and the access agree. -/
def ReadsAs (i : Instr) (off : Nat) (val : Engine → Word) : Prop :=
  ∀ s : State,
    exec i s = .next { s with response := some (.data (val s.engine)) } ∧
    ∀ (n : Nat) (rest : List Event),
      step { s with inbox := .access (.rd n off) :: rest } =
        if n = 8 then .next { s with inbox := rest, response := some (.data (val s.engine)) }
        else .next { s with inbox := rest, response := some (.busError off) }

/-- An 8-byte write of the register at `off` has the effect `f` on the engine and responds OK; a write there of another width
is a bus error (R43, R93). The instruction and the access agree. -/
def WritesAs (i : Word → Instr) (off : Nat) (f : Word → Engine → Engine) : Prop :=
  ∀ (s : State) (v : Word),
    exec (i v) s = .next { s with engine := f v s.engine, response := some .ok } ∧
    ∀ (n : Nat) (rest : List Event),
      step { s with inbox := .access (.wr n off v) :: rest } =
        if n = 8 then .next { engine := f v s.engine, inbox := rest, response := some .ok }
        else .next { s with inbox := rest, response := some (.busError off) }

/-- From `s` the command `i`, whose word is `w`, completes, leaves the engine as `e` and responds OK: as an instruction, as the
write instruction of `w` to CMD, and as the step of that access (R94, R109). -/
def Performs (i : Instr) (w : Word) (s : State) (e : Engine) : Prop :=
  exec i s = .next { s with engine := e, response := some .ok } ∧
  exec (.wrCmd w) s = .next { s with engine := e, response := some .ok } ∧
  ∀ rest : List Event,
    step { s with inbox := .access (.wr 8 0x08 w) :: rest } =
      .next { engine := e, inbox := rest, response := some .ok }

/-- The rows of 42_commands.md R112's table. -/
inductive TableRow where
  | nop | init | initZero | absorb | tail | finalize | abort | illegal | guarded | other
deriving DecidableEq, Repr

/-- R56: the eight words of TAIL. -/
def tailWords : List Word := [0x003, 0x103, 0x203, 0x303, 0x403, 0x503, 0x603, 0x703]

/-- R112: the row of a command word, from the words of R56. -/
def rowOfWord (e : Engine) (w : Word) : TableRow :=
  if w = 0 then .nop
  else if w = 1 then (if e.cfgC = 0 ∨ e.cfgD = 0 then .initZero else .init)
  else if w = 2 then .absorb
  else if w ∈ tailWords then .tail
  else if w = 4 then .finalize
  else if w = 5 then .abort
  else .illegal

/-- R112: the row of an access; `other` is the last row, WR MSG, any read, any bus error, and the writes R99 ignores. -/
def rowOf (e : Engine) : Access → TableRow
  | .rd _ _ => .other
  | .wr n off w =>
    if n = 8 ∧ off = 0x08 then rowOfWord e w
    else if n = 8 ∧ (off = 0x18 ∨ off = 0x20 ∨ off = 0x28) then .guarded
    else .other

/-- R112: a cell of the table, the next phase and the error code raised, if any. -/
def cell : TableRow → Phase → Phase × Option Err
  | .nop, p => (p, none)
  | .init, _ => (.absorb, none)
  | .initZero, _ => (.error, some .zeroRounds)
  | .absorb, .idle => (.error, some .sequence)
  | .absorb, .absorb => (.absorb, none)
  | .absorb, .tailed => (.error, some .sequence)
  | .absorb, .done => (.error, some .sequence)
  | .absorb, .error => (.error, none)
  | .tail, .idle => (.error, some .sequence)
  | .tail, .absorb => (.tailed, none)
  | .tail, .tailed => (.error, some .sequence)
  | .tail, .done => (.error, some .sequence)
  | .tail, .error => (.error, none)
  | .finalize, .idle => (.error, some .missingInput)
  | .finalize, .absorb => (.error, some .missingInput)
  | .finalize, .tailed => (.done, none)
  | .finalize, .done => (.error, some .sequence)
  | .finalize, .error => (.error, none)
  | .abort, _ => (.idle, none)
  | .illegal, .error => (.error, none)
  | .illegal, _ => (.error, some .illegalCmd)
  | .guarded, .idle => (.idle, none)
  | .guarded, .absorb => (.error, some .locked)
  | .guarded, .tailed => (.error, some .locked)
  | .guarded, .done => (.done, none)
  | .guarded, .error => (.error, none)
  | .other, p => (p, none)

/-- The next event is this access. -/
def NextIs (s : State) (a : Access) : Prop := s.inbox.head? = some (.access a)

/-- The next event is RESET. -/
def NextIsReset (s : State) : Prop := ∃ c, s.inbox.head? = some (.reset c)

/-- From `s` to `t` an error was raised: `t` is in ERROR and a STATUS field changed (R115). -/
def RaisesError (s t : State) : Prop :=
  t.engine.phase = .error ∧
  ¬(t.engine.phase = s.engine.phase ∧ t.engine.err = s.engine.err ∧ t.engine.errInfo = s.engine.errInfo)

/-- Two states that differ at most in KEY0 and KEY1. -/
def SameButKeys (s t : State) : Prop :=
  t = { s with engine := { s.engine with key0 := t.engine.key0, key1 := t.engine.key1 } }

/-- Two states that differ at most in V. -/
def SameButV (s t : State) : Prop := t = { s with engine := { s.engine with v := t.engine.v } }

/-- Two outcomes are of one kind, and their next states are related. -/
def OutcomesRelated (r : State → State → Prop) :
    Host.Outcome State Fault Refusal → Host.Outcome State Fault Refusal → Prop
  | .next s, .next t => r s t
  | .fault f, .fault g => f = g
  | .refused f, .refused g => f = g
  | _, _ => False

end Sys2Proof.Safety
end

