-- ==== Sys2Proof/Certificates/Slice0/Obligations.lean ====
section
/-! DEFINITION. The statements for the provers. Each docstring names the rule of spec/ it formalises. -/

open Sys2Proof
open Sys2Proof.Machine
open Sys2Proof.Safety

/-! ## Register reads -/

/-- R84. -/
def Obligations.ReadIdReturnsConstant : Prop :=
  ReadsAs .rdId 0x00 fun _ => 0x0000000153495048

/-- R85. -/
def Obligations.ReadCmdReturnsZero : Prop :=
  ReadsAs .rdCmd 0x08 fun _ => 0

/-- R86. -/
def Obligations.ReadStatusAssemblesFields : Prop :=
  ReadsAs .rdStatus 0x10 fun e =>
    e.phase.code.setWidth 64 ||| (e.err.code.setWidth 64 <<< 8) ||| (e.errInfo.setWidth 64 <<< 16)

/-- R24, R25, R26, R27: the code tables, and each field of the word RD STATUS returns, the reserved ones 0. -/
def Obligations.StatusWordFieldsAndCodes : Prop :=
  (Phase.idle.code = 0 ∧ Phase.absorb.code = 1 ∧ Phase.tailed.code = 2 ∧ Phase.done.code = 3 ∧ Phase.error.code = 4) ∧
  (Err.none.code = 0 ∧ Err.illegalCmd.code = 1 ∧ Err.sequence.code = 2 ∧ Err.missingInput.code = 3 ∧
    Err.zeroRounds.code = 4 ∧ Err.locked.code = 5) ∧
  ∀ e : Engine,
    (e.readReg .status).extractLsb' 0 3 = e.phase.code ∧
    (e.readReg .status).extractLsb' 3 5 = 0 ∧
    (e.readReg .status).extractLsb' 8 4 = e.err.code ∧
    (e.readReg .status).extractLsb' 12 4 = 0 ∧
    (e.readReg .status).extractLsb' 16 8 = e.errInfo ∧
    (e.readReg .status).extractLsb' 24 40 = 0

/-- R87: and the fields of the word read, bits 63:32 zero. -/
def Obligations.ReadCfgAssemblesCounts : Prop :=
  ReadsAs .rdCfg 0x18 (fun e => e.cfgC.setWidth 64 ||| (e.cfgD.setWidth 64 <<< 16)) ∧
  ∀ e : Engine,
    (e.readReg .cfg).extractLsb' 0 16 = e.cfgC ∧
    (e.readReg .cfg).extractLsb' 16 16 = e.cfgD ∧
    (e.readReg .cfg).extractLsb' 32 32 = 0

/-- R88. -/
def Obligations.ReadKeysReturnZero : Prop :=
  ReadsAs .rdKey0 0x20 (fun _ => 0) ∧ ReadsAs .rdKey1 0x28 (fun _ => 0)

/-- R89, R90, R91. -/
def Obligations.ReadMsgLenResultReturnTheRegister : Prop :=
  ReadsAs .rdMsg 0x30 (fun e => e.msg) ∧ ReadsAs .rdLen 0x38 (fun e => e.len) ∧
  ReadsAs .rdResult 0x40 (fun e => e.result)

/-- R92, with the values of R66. -/
def Obligations.ReadConstantsReturnC : Prop :=
  ReadsAs .rdConst0 0x48 (fun _ => 0x736f6d6570736575) ∧ ReadsAs .rdConst1 0x50 (fun _ => 0x646f72616e646f6d) ∧
  ReadsAs .rdConst2 0x58 (fun _ => 0x6c7967656e657261) ∧ ReadsAs .rdConst3 0x60 (fun _ => 0x7465646279746573)

/-- R83, R45: a read of any width and offset in the block is answered, and changes no state of the engine. -/
def Obligations.ReadsHaveNoSideEffects : Prop :=
  ∀ (s : State) (n off : Nat) (rest : List Event), off < 128 →
    ∃ r : Response, step { s with inbox := .access (.rd n off) :: rest } =
      .next { s with inbox := rest, response := some r }

/-! ## Register writes -/

/-- R95, R100: CFG. -/
def Obligations.WriteCfgStoresOrRaisesLocked : Prop :=
  WritesAs .wrCfg 0x18 fun v e =>
    if e.phase = .absorb ∨ e.phase = .tailed then { e with err := .locked, errInfo := 0x18, phase := .error }
    else { e with cfgC := v.extractLsb' 0 16, cfgD := v.extractLsb' 16 16 }

/-- R96, R97, R100: KEY0 and KEY1. -/
def Obligations.WriteKeysStoreOrRaiseLocked : Prop :=
  (WritesAs .wrKey0 0x20 fun v e =>
    if e.phase = .absorb ∨ e.phase = .tailed then { e with err := .locked, errInfo := 0x20, phase := .error }
    else { e with key0 := v }) ∧
  (WritesAs .wrKey1 0x28 fun v e =>
    if e.phase = .absorb ∨ e.phase = .tailed then { e with err := .locked, errInfo := 0x28, phase := .error }
    else { e with key1 := v })

/-- R98. -/
def Obligations.WriteMsgStoresInEveryPhase : Prop :=
  WritesAs .wrMsg 0x30 fun v e => { e with msg := v }

/-- R99. -/
def Obligations.WritesToReadOnlyRegistersDoNothing : Prop :=
  WritesAs .wrId 0x00 (fun _ e => e) ∧ WritesAs .wrStatus 0x10 (fun _ e => e) ∧
  WritesAs .wrLen 0x38 (fun _ e => e) ∧ WritesAs .wrResult 0x40 (fun _ e => e) ∧
  WritesAs .wrConst0 0x48 (fun _ e => e) ∧ WritesAs .wrConst1 0x50 (fun _ e => e) ∧
  WritesAs .wrConst2 0x58 (fun _ e => e) ∧ WritesAs .wrConst3 0x60 (fun _ e => e)

/-- R94, R102: a write of a legal word to CMD completes as the command it decodes to; a write of an illegal word records ILLEGAL_CMD
with its OPC byte outside ERROR, and has no effect in ERROR. -/
def Obligations.WriteCmdPerformsTheCommand : Prop :=
  (∀ (s : State) (c : Command), ∃ t : State,
    exec (.wrCmd (cmdWord c)) s = .next t ∧ exec c.toInstr s = .next t) ∧
  (∀ (s : State) (w : Word), (∀ c : Command, w ≠ cmdWord c) →
    exec (.wrCmd w) s =
      if s.engine.phase = .error then .next { s with response := some .ok }
      else
        .next { s with
          engine := { s.engine with err := .illegalCmd, errInfo := w.extractLsb' 0 8, phase := .error }
          response := some .ok }) ∧
  ∀ (s : State) (w : Word) (n : Nat) (rest : List Event),
    step { s with inbox := .access (.wr n 0x08 w) :: rest } =
      if n = 8 then exec (.wrCmd w) { s with inbox := rest }
      else .next { s with inbox := rest, response := some (.busError 0x08) }

/-! ## Commands -/

/-- R103. -/
def Obligations.NopHasNoEffect : Prop :=
  ∀ s : State, Performs .nop 0x0000000000000000 s s.engine

/-- R104: both cases, in every phase. -/
def Obligations.InitStartsAComputationOrRaisesZeroRounds : Prop :=
  ∀ s : State,
    (s.engine.cfgC ≠ 0 → s.engine.cfgD ≠ 0 →
      Performs .init 0x0000000000000001 s
        { s.engine with
          v := ⟨s.engine.key0 ^^^ 0x736f6d6570736575, s.engine.key1 ^^^ 0x646f72616e646f6d,
                s.engine.key0 ^^^ 0x6c7967656e657261, s.engine.key1 ^^^ 0x7465646279746573⟩
          len := 0, result := 0, err := .none, errInfo := 0, phase := .absorb }) ∧
    (s.engine.cfgC = 0 ∨ s.engine.cfgD = 0 →
      Performs .init 0x0000000000000001 s { s.engine with err := .zeroRounds, errInfo := 0x01, phase := .error })

/-- R105: every phase. -/
def Obligations.AbsorbCompressesMsgInAbsorbOnly : Prop :=
  ∀ s : State,
    Performs .absorb 0x0000000000000002 s
      (match s.engine.phase with
        | .absorb =>
          { s.engine with
            v := compressBlock s.engine.v s.engine.msg s.engine.cfgC.toNat, len := s.engine.len + 8 }
        | .error => s.engine
        | _ => { s.engine with err := .sequence, errInfo := 0x02, phase := .error })

/-- R106: every phase and every NB; the word is 3 | n << 8. -/
def Obligations.TailCompressesTheFinalBlockInAbsorbOnly : Prop :=
  ∀ (s : State) (n : BitVec 3),
    Performs (.tail n) (0x0000000000000003 ||| (n.setWidth 64 <<< 8)) s
      (match s.engine.phase with
        | .absorb =>
          { s.engine with
            v := compressBlock s.engine.v
              ((s.engine.msg &&& (((1 : Word) <<< (8 * n.toNat)) - 1)) |||
                (((s.engine.len + n.setWidth 64) % 256) <<< 56))
              s.engine.cfgC.toNat
            len := s.engine.len + n.setWidth 64, phase := .tailed }
        | .error => s.engine
        | _ => { s.engine with err := .sequence, errInfo := 0x03, phase := .error })

/-- R107: every phase. -/
def Obligations.FinalizeProducesTheResultInTailedOnly : Prop :=
  ∀ s : State,
    Performs .finalize 0x0000000000000004 s
      (match s.engine.phase with
        | .tailed =>
          { s.engine with
            v := (finalizeState s.engine.v s.engine.cfgD.toNat).2
            result := (finalizeState s.engine.v s.engine.cfgD.toNat).1, phase := .done }
        | .error => s.engine
        | .done => { s.engine with err := .sequence, errInfo := 0x04, phase := .error }
        | _ => { s.engine with err := .missingInput, errInfo := 0x04, phase := .error })

/-- R108: ABORT in every phase, and no other command returns to IDLE. -/
def Obligations.AbortAloneReturnsToIdle : Prop :=
  (∀ s : State,
    Performs .abort 0x0000000000000005 s
      { s.engine with v := ⟨0, 0, 0, 0⟩, len := 0, result := 0, err := .none, errInfo := 0, phase := .idle }) ∧
  ∀ (i : Instr) (s t : State), exec i s = .next t → s.engine.phase ≠ .idle → t.engine.phase = .idle →
    i = .abort ∨ i = .wrCmd 0x0000000000000005

/-- R106, D12: the block TAIL compresses, byte by byte: the n low bytes of MSG, zeros, and the length tag on top. -/
def Obligations.TailBlockKeepsExactlyTheTrailingBytes : Prop :=
  ∀ (e : Engine) (n : BitVec 3),
    (∀ j : Nat, j < n.toNat → lane (e.tailBlock n) j = lane e.msg j) ∧
    (∀ j : Nat, n.toNat ≤ j → j < 7 → lane (e.tailBlock n) j = 0) ∧
    (lane (e.tailBlock n) 7).toNat = (e.len.toNat + n.toNat) % 256

/-! ## Errors and recovery -/

/-- R115. -/
def Obligations.RaiseRecordsOnlyTheFirstError : Prop :=
  ∀ (code : Err) (info : Byte) (e : Engine),
    (e.phase ≠ .error → e.raise code info = { e with err := code, errInfo := info, phase := .error }) ∧
    (e.phase = .error → e.raise code info = e)

/-- R118: an instruction that raises an error, INIT's ZERO_ROUNDS in ERROR included, changes only the STATUS fields, and its
access responds OK (R115, R120). -/
def Obligations.ErrorsArePrecise : Prop :=
  ∀ (i : Instr) (s t : State), exec i s = .next t → RaisesError s t →
    t.engine = { s.engine with err := t.engine.err, errInfo := t.engine.errInfo, phase := .error } ∧
    t.inbox = s.inbox ∧ t.response = some .ok

/-- R113: every error raised is one of the rows of the cause table, with its information byte. -/
def Obligations.EveryErrorHasItsCauseAndInfo : Prop :=
  ∀ (s t : State), step s = .next t → RaisesError s t →
    (∃ w, NextIs s (.wr 8 0x08 w) ∧ wordWf w = false ∧ s.engine.phase ≠ .error ∧
      t.engine.err = .illegalCmd ∧ t.engine.errInfo = w.extractLsb' 0 8) ∨
    (NextIs s (.wr 8 0x08 0x2) ∧ s.engine.phase ≠ .absorb ∧ s.engine.phase ≠ .error ∧
      t.engine.err = .sequence ∧ t.engine.errInfo = 0x02) ∨
    (∃ w ∈ tailWords, NextIs s (.wr 8 0x08 w) ∧ s.engine.phase ≠ .absorb ∧ s.engine.phase ≠ .error ∧
      t.engine.err = .sequence ∧ t.engine.errInfo = 0x03) ∨
    (NextIs s (.wr 8 0x08 0x4) ∧ s.engine.phase = .done ∧ t.engine.err = .sequence ∧ t.engine.errInfo = 0x04) ∨
    (NextIs s (.wr 8 0x08 0x4) ∧ (s.engine.phase = .idle ∨ s.engine.phase = .absorb) ∧
      t.engine.err = .missingInput ∧ t.engine.errInfo = 0x04) ∨
    (NextIs s (.wr 8 0x08 0x1) ∧ (s.engine.cfgC = 0 ∨ s.engine.cfgD = 0) ∧
      t.engine.err = .zeroRounds ∧ t.engine.errInfo = 0x01) ∨
    (∃ off v, (off = 0x18 ∨ off = 0x20 ∨ off = 0x28) ∧ NextIs s (.wr 8 off v) ∧
      (s.engine.phase = .absorb ∨ s.engine.phase = .tailed) ∧
      t.engine.err = .locked ∧ t.engine.errInfo = BitVec.ofNat 8 off)

/-- R116: in ERROR, ABSORB, TAIL, FINALIZE and illegal words change nothing of the engine; KEY0, KEY1, CFG and MSG are
written; INIT, ABORT, NOP and reads act as in every phase (their own statements). -/
def Obligations.ErrorPhaseIgnoresAllButRecovery : Prop :=
  ∀ s : State, s.engine.phase = .error →
    exec .absorb s = .next { s with response := some .ok } ∧
    (∀ n, exec (.tail n) s = .next { s with response := some .ok }) ∧
    exec .finalize s = .next { s with response := some .ok } ∧
    (∀ w, wordWf w = false → exec (.wrCmd w) s = .next { s with response := some .ok }) ∧
    (∀ v, exec (.wrKey0 v) s = .next { s with engine := { s.engine with key0 := v }, response := some .ok }) ∧
    (∀ v, exec (.wrKey1 v) s = .next { s with engine := { s.engine with key1 := v }, response := some .ok }) ∧
    (∀ v, exec (.wrCfg v) s =
      .next { s with
        engine := { s.engine with cfgC := v.extractLsb' 0 16, cfgD := v.extractLsb' 16 16 }, response := some .ok }) ∧
    (∀ v, exec (.wrMsg v) s = .next { s with engine := { s.engine with msg := v }, response := some .ok })

/-- R117: only INIT with both counts positive, ABORT and RESET leave ERROR. -/
def Obligations.OnlyInitAbortAndResetLeaveError : Prop :=
  ∀ s t : State, step s = .next t → s.engine.phase = .error → t.engine.phase ≠ .error →
    (NextIs s (.wr 8 0x08 0x1) ∧ s.engine.cfgC ≠ 0 ∧ s.engine.cfgD ≠ 0 ∧ t.engine.phase = .absorb ∧
      t.engine.err = .none ∧ t.engine.errInfo = 0) ∨
    (NextIs s (.wr 8 0x08 0x5) ∧ t.engine.phase = .idle ∧ t.engine.err = .none ∧ t.engine.errInfo = 0 ∧
      t.engine.v = ⟨0, 0, 0, 0⟩ ∧ t.engine.len = 0 ∧ t.engine.result = 0) ∨
    (NextIsReset s ∧ t.engine = Engine.reset)

/-- R112: the whole table, for every access of the block in every state. -/
def Obligations.PhaseTransitionsFollowTheTable : Prop :=
  ∀ (s : State) (a : Access) (rest : List Event), a.off < 128 → s.inbox = .access a :: rest →
    ∃ t : State, step s = .next t ∧ t.inbox = rest ∧
      t.engine.phase = (cell (rowOf s.engine a) s.engine.phase).1 ∧
      (∀ c, (cell (rowOf s.engine a) s.engine.phase).2 = some c → t.engine.err = c) ∧
      ((cell (rowOf s.engine a) s.engine.phase).2 = none → t.engine.phase = .error → t.engine.err = s.engine.err)

/-! ## The bus, the step and reset -/

/-- R43, R42: exactly the accesses of the three cases are refused, and a refused access changes no state and answers with
the bus error; every other access of the block is answered otherwise. -/
def Obligations.BusErrorsAreExactlyTheThreeCases : Prop :=
  ∀ (s : State) (a : Access) (rest : List Event), a.off < 128 →
    ((a.width ≠ 8 ∨ a.off % 8 ≠ 0 ∨ a.off = 0x68 ∨ a.off = 0x70 ∨ a.off = 0x78) →
      step { s with inbox := .access a :: rest } =
        .next { s with inbox := rest, response := some (.busError a.off) }) ∧
    (¬(a.width ≠ 8 ∨ a.off % 8 ≠ 0 ∨ a.off = 0x68 ∨ a.off = 0x70 ∨ a.off = 0x78) →
      ∃ t : State, step { s with inbox := .access a :: rest } = .next t ∧ t.inbox = rest ∧
        t.response ≠ some (.busError a.off))

/-- R83, R93, R94: a step takes the oldest event; an access that decodes to an instruction runs it on the state with the event
taken, and a command word written to CMD runs the command it decodes to. -/
def Obligations.StepRunsTheDecodedInstruction : Prop :=
  (∀ (s : State) (a : Access) (rest : List Event) (i : Instr),
    s.inbox = .access a :: rest → decode (.bus a) = .ok i → step s = exec i { s with inbox := rest }) ∧
  (∀ (s : State) (w : Word) (rest : List Event) (i : Instr),
    s.inbox = .access (.wr 8 0x08 w) :: rest → decode (.cmd w) = .ok i → step s = exec i { s with inbox := rest })

/-- The model's choices (log entries 3 and 4): an access outside the block stops the model by name, and only that does;
with nothing pending the machine keeps its state. -/
def Obligations.OnlyAccessesOutsideTheBlockStop : Prop :=
  (∀ (s : State) (a : Access) (rest : List Event),
    s.inbox = .access a :: rest → 128 ≤ a.off → step s = .fault (.outsideBlock a.off)) ∧
  (∀ s : State, s.inbox = [] → step s = .next s) ∧
  (∀ s : State, Safe s → ∃ t : State, step s = .next t ∧ Safe t)

/-- R127, R35: RESET gives every state element its reset value, whatever access coincides with it, and that access has no
effect. The last clause is the model's choice (DESIGN CHOICE, log entry 5), no rule of the spec: where no access coincides, the
response is none. -/
def Obligations.ResetEventGivesTheResetValues : Prop :=
  ∀ (s : State) (coinciding : Option Access) (rest : List Event),
    s.inbox = .reset coinciding :: rest →
    ∃ t : State, step s = .next t ∧ t.inbox = rest ∧
      t.engine =
        { v := ⟨0, 0, 0, 0⟩, key0 := 0, key1 := 0, cfgC := 2, cfgD := 4, msg := 0, phase := .idle, err := .none,
          errInfo := 0, len := 0, result := 0 } ∧
      (coinciding = none → t.response = none)

/-- R35: the reset state, and what the registers read as in it. -/
def Obligations.ResetStateHasTheResetValues : Prop :=
  State.reset.engine =
    { v := ⟨0, 0, 0, 0⟩, key0 := 0, key1 := 0, cfgC := 2, cfgD := 4, msg := 0, phase := .idle, err := .none,
      errInfo := 0, len := 0, result := 0 } ∧
  State.reset.engine.readReg .id = 0x0000000153495048 ∧
  State.reset.engine.readReg .status = 0 ∧
  State.reset.engine.readReg .cfg = 0x0000000000040002 ∧
  State.reset.engine.readReg .const0 = 0x736f6d6570736575 ∧
  State.reset.engine.readReg .const1 = 0x646f72616e646f6d ∧
  State.reset.engine.readReg .const2 = 0x6c7967656e657261 ∧
  State.reset.engine.readReg .const3 = 0x7465646279746573

/-- R128: ABORT differs from RESET only in that it keeps KEY0, KEY1, CFG and MSG. -/
def Obligations.AbortIsResetKeepingKeyCfgMsg : Prop :=
  ∀ s t : State, exec .abort s = .next t →
    t.engine =
      { Engine.reset with
        key0 := s.engine.key0, key1 := s.engine.key1, cfgC := s.engine.cfgC, cfgD := s.engine.cfgD,
        msg := s.engine.msg }

/-! ## Whole-machine rules: who writes which state -/

/-- R100, R34, R20: while Locked, nothing but RESET changes KEY0, KEY1 or CFG. -/
def Obligations.KeyAndCountsAreFixedWhileLocked : Prop :=
  ∀ s t : State, step s = .next t → (s.engine.phase = .absorb ∨ s.engine.phase = .tailed) → ¬NextIsReset s →
    t.engine.key0 = s.engine.key0 ∧ t.engine.key1 = s.engine.key1 ∧
    t.engine.cfgC = s.engine.cfgC ∧ t.engine.cfgD = s.engine.cfgD

/-- R20, R22, R23: MSG, KEY0, KEY1 and CFG change only by the host's write to that register, and by RESET. -/
def Obligations.HostRegistersChangeOnlyByTheirOwnWrite : Prop :=
  ∀ s t : State, step s = .next t → ¬NextIsReset s →
    (t.engine.msg = s.engine.msg ∨ NextIs s (.wr 8 0x30 t.engine.msg)) ∧
    (t.engine.key0 = s.engine.key0 ∨ NextIs s (.wr 8 0x20 t.engine.key0)) ∧
    (t.engine.key1 = s.engine.key1 ∨ NextIs s (.wr 8 0x28 t.engine.key1)) ∧
    ((t.engine.cfgC = s.engine.cfgC ∧ t.engine.cfgD = s.engine.cfgD) ∨ ∃ v, NextIs s (.wr 8 0x18 v))

/-- R18, R28, R29: V, LEN and RESULT change only by the commands the rules name, each in its own way, and by RESET. -/
def Obligations.VLenResultChangeOnlyByTheirCommands : Prop :=
  ∀ s t : State, step s = .next t → ¬NextIsReset s →
    (t.engine.v = s.engine.v ∨ ∃ w, NextIs s (.wr 8 0x08 w) ∧ (w ∈ [0x1, 0x2, 0x4, 0x5] ∨ w ∈ tailWords)) ∧
    (t.engine.len = s.engine.len ∨
      (NextIs s (.wr 8 0x08 0x1) ∧ t.engine.len = 0) ∨ (NextIs s (.wr 8 0x08 0x5) ∧ t.engine.len = 0) ∨
      (NextIs s (.wr 8 0x08 0x2) ∧ t.engine.len = s.engine.len + 8) ∨
      ∃ n : BitVec 3, NextIs s (.wr 8 0x08 (cmdWord (.tail n))) ∧ t.engine.len = s.engine.len + n.setWidth 64) ∧
    (t.engine.result = s.engine.result ∨
      (NextIs s (.wr 8 0x08 0x1) ∧ t.engine.result = 0) ∨ (NextIs s (.wr 8 0x08 0x5) ∧ t.engine.result = 0) ∨
      (NextIs s (.wr 8 0x08 0x4) ∧ s.engine.phase = .tailed ∧ t.engine.phase = .done))

/-- R88, R21, D14: the key does not leak. Two states that differ only in the key take the same step to states that differ
only in the key, the bus response included, unless the next access is INIT, the one command that reads it. -/
def Obligations.KeyIsReadOnlyByInit : Prop :=
  ∀ s t : State, SameButKeys s t → ¬NextIs s (.wr 8 0x08 0x1) →
    OutcomesRelated SameButKeys (step s) (step t)

/-- R18, R122: V is hidden. Two states that differ only in V take the same step to states that differ only in V, the bus
response included, unless the next access is FINALIZE, which puts V's output in RESULT. -/
def Obligations.VIsSeenOnlyThroughFinalize : Prop :=
  ∀ s t : State, SameButV s t → ¬NextIs s (.wr 8 0x08 0x4) →
    OutcomesRelated SameButV (step s) (step t)

/-- R46: a write to MSG and an unlocked write to CFG, KEY0 or KEY1 are idempotent, and so is every read; a write to CMD is
not: ABSORB twice compresses the block twice, and FINALIZE twice raises SEQUENCE the second time. -/
def Obligations.IdempotentAccessesAndTheOnesThatAreNot : Prop :=
  (∀ (i : Instr) (s t : State),
    i ∈ [Instr.rdId, .rdCmd, .rdStatus, .rdCfg, .rdKey0, .rdKey1, .rdMsg, .rdLen, .rdResult, .rdConst0, .rdConst1,
          .rdConst2, .rdConst3] ∨
      (∃ v, i = .wrMsg v) ∨
      (s.engine.locked = false ∧ ∃ v, i = .wrCfg v ∨ i = .wrKey0 v ∨ i = .wrKey1 v) →
    exec i s = .next t → exec i t = .next t) ∧
  (∀ s : State, s.engine.phase = .absorb →
    ∃ t u : State, exec .absorb s = .next t ∧ exec .absorb t = .next u ∧
      u.engine.v =
        compressBlock (compressBlock s.engine.v s.engine.msg s.engine.cfgC.toNat) s.engine.msg s.engine.cfgC.toNat ∧
      u.engine.len = s.engine.len + 16) ∧
  (∀ s : State, s.engine.phase = .tailed →
    ∃ t u : State, exec .finalize s = .next t ∧ t.engine.phase = .done ∧ exec .finalize t = .next u ∧
      u.engine.phase = .error ∧ u.engine.err = .sequence)

/-! ## Encoding -/

/-- R55: of the 2^64 command words exactly these thirteen are legal. -/
def Obligations.ExactlyThirteenWordsAreLegal : Prop :=
  ∀ w : Word, legalWord w = true ↔
    w ∈ [0x000, 0x001, 0x002, 0x003, 0x103, 0x203, 0x303, 0x403, 0x503, 0x603, 0x703, 0x004, 0x005]

/-- R64: the decoder maps every word to the one command whose word it is, or to Illegal with the word's OPC byte. -/
def Obligations.DecoderMapsEveryWordToOneCommand : Prop :=
  ∀ w : Word,
    (∀ c : Command, decodeCmd w = .ok c ↔ w = cmdWord c) ∧
    (∀ opc : Byte, decodeCmd w = .error opc ↔ legalWord w = false ∧ opc = w.extractLsb' 0 8)

/-- R53, R56, R38: decoding the encoding of any instruction gives it back, every operand at every value. -/
def Obligations.DecodeOfEncodeIsTheInstruction : Prop :=
  ∀ i : Instr, decode (encode i) = .ok i

/-- R53: the encodings that decode are exactly the well-formed ones of the spec's tables, and each is the encoding of the
instruction it decodes to, so no bit of one is dropped. -/
def Obligations.EncodeOfDecodeIsTheEncoding : Prop :=
  ∀ x : Encoded,
    (∀ i : Instr, decode x = .ok i → encode i = x) ∧
    (x.wf = true ↔ ∃ i : Instr, decode x = .ok i)

/-- R56, R58, R57, R83, R93: some encodings written out, and what they decode to. -/
def Obligations.SampleEncodingsDecode : Prop :=
  decode (.cmd 0x0000000000000001) = .ok .init ∧
  decode (.cmd 0x0000000000000703) = .ok (.tail 7) ∧
  decode (.cmd 0x0000000000000005) = .ok .abort ∧
  decode (.cmd 0x0000000000000006) = .error (.illegalCommand 0x06) ∧
  decode (.cmd 0x0000000000000102) = .error (.illegalCommand 0x02) ∧
  decode (.cmd 0x0000000000000800) = .error (.illegalCommand 0x00) ∧
  decode (.bus (.rd 8 0x10)) = .ok .rdStatus ∧
  decode (.bus (.wr 8 0x20 5)) = .ok (.wrKey0 5) ∧
  decode (.bus (.rd 8 0x34)) = .error (.bus (.busError 0x34)) ∧
  decode (.bus (.wr 1 0x08 1)) = .error (.bus (.busError 0x08))

/-! ## Datapath -/

/-- R69: the formula of rotl(a, n), and that bit i of it is bit (i − n) mod 64 of a. -/
def Obligations.RotlMovesEachBit : Prop :=
  ∀ (a : Word) (n : Nat), 0 < n → n < 64 →
    rotl a n = (a <<< n) ||| (a >>> (64 - n)) ∧
    ∀ i : Nat, i < 64 → (rotl a n).getLsbD i = a.getLsbD ((i + 64 - n) % 64)

/-- R70: SipRound is the composition of the rule's steps, each invertible, so it is a bijection on 256-bit states. -/
def Obligations.SipRoundIsABijection : Prop :=
  Function.Bijective sipRound

/-- R70: SipRound in closed form, over the library's rotation. -/
def Obligations.SipRoundClosedForm : Prop :=
  ∀ v0 v1 v2 v3 : Word,
    let a := v0 + v1
    let b := v1.rotateLeft 13 ^^^ a
    let c := v2 + v3
    let d := v3.rotateLeft 16 ^^^ c
    sipRound ⟨v0, v1, v2, v3⟩ =
      ⟨a.rotateLeft 32 + d, b.rotateLeft 17 ^^^ (c + b), (c + b).rotateLeft 32,
        d.rotateLeft 21 ^^^ (a.rotateLeft 32 + d)⟩

/-- R71: SipRounds applies SipRound exactly n times; the zero state is fixed by any number of rounds. -/
def Obligations.SipRoundsIterate : Prop :=
  (∀ (v : V4) (n : Nat), sipRounds v n = sipRound^[n] v) ∧
  (∀ n : Nat, sipRounds ⟨0, 0, 0, 0⟩ n = ⟨0, 0, 0, 0⟩)

/-- R76, R78: a block is XORed into v3 before the c rounds and into v0 after them; 0xFF is XORed into v2 once, before the d
rounds, and the output is the XOR of the four words after them. -/
def Obligations.BlockAndFinalMixingOrder : Prop :=
  (∀ (v0 v1 v2 v3 m : Word) (c : Nat),
    let r := sipRounds ⟨v0, v1, v2, v3 ^^^ m⟩ c
    compressBlock ⟨v0, v1, v2, v3⟩ m c = ⟨r.v0 ^^^ m, r.v1, r.v2, r.v3⟩) ∧
  (∀ (v0 v1 v2 v3 : Word) (d : Nat),
    let r := sipRounds ⟨v0, v1, v2 ^^^ 0xFF, v3⟩ d
    finalizeState ⟨v0, v1, v2, v3⟩ d = (r.v0 ^^^ r.v1 ^^^ r.v2 ^^^ r.v3, r))

/-- R65, R66, R72: the constants are the four big-endian chunks of the string's bytes, have the values of the table, and are
mixed into the key in the table's order. -/
def Obligations.ConstantsAreTheBigEndianChunks : Prop :=
  let bytes : List Byte := "somepseudorandomlygeneratedbytes".toList.map fun ch => BitVec.ofNat 8 ch.toNat
  bytes.length = 32 ∧
  ([0, 1, 2, 3].map fun i => be64 ((bytes.drop (8 * i)).take 8)) = [c0, c1, c2, c3] ∧
  [c0, c1, c2, c3] = [0x736f6d6570736575, 0x646f72616e646f6d, 0x6c7967656e657261, 0x7465646279746573] ∧
  ∀ k0 k1 : Word, initState k0 k1 = ⟨k0 ^^^ c0, k1 ^^^ c1, k0 ^^^ c2, k1 ^^^ c3⟩

/-- R73, R74, R75, R40: Encode(B): the number of words, and every byte of every word. -/
def Obligations.EncodeMessagePlacesEveryByte : Prop :=
  ∀ b : List Byte,
    (encodeMessage b).length = (b.length + 1 + 7) / 8 ∧
    (encodeMessage b).length = b.length / 8 + 1 ∧
    (∀ i j : Nat, i < b.length / 8 → j < 8 →
      ∃ m, (encodeMessage b)[i]? = some m ∧ b[8 * i + j]? = some (lane m j)) ∧
    ∃ m, (encodeMessage b)[b.length / 8]? = some m ∧
      (∀ j : Nat, j < b.length % 8 → b[8 * (b.length / 8) + j]? = some (lane m j)) ∧
      (∀ j : Nat, b.length % 8 ≤ j → j < 7 → lane m j = 0) ∧
      (lane m 7).toNat = b.length % 256

/-- R41, R37, R40: the byte at bus address ENGINE_BASE + off + j of a register is bits [8j+7:8j] of what it reads as, and a
little-endian host that stores 8 bytes in address order stores LE64 of them. R41 speaks of the register's bits: that the byte of
the write-only CMD, KEY0 and KEY1 is one of what they read as, 0, is the model's choice (DEDUCED, log entry 13). -/
def Obligations.RegisterBytesAreLittleEndianLanes : Prop :=
  (∀ (e : Engine) (r : Reg) (j : Nat), j < 8 →
    e.busByte (Config.engineBase + r.offset + j) = some ((e.readReg r).extractLsb' (8 * j) 8)) ∧
  Config.engineBase % 128 = 0 ∧
  (∀ (b : List Byte) (j : Nat), b.length = 8 → j < 8 → b[j]? = some (lane (le64 b) j))

/-- R82, R114: an absent content is MissingInput and no value; its hardware counterpart, FINALIZE with no final block
compressed, records MISSING_INPUT and leaves RESULT as it was. -/
def Obligations.MissingInputGivesNoValue : Prop :=
  (∀ (k0 k1 : Word) (c d : Nat), compute k0 k1 c d none = .error .missingInput) ∧
  (∀ (k0 k1 : Word) (c d : Nat) (b : List Byte), compute k0 k1 c d (some b) = .ok (sipHash k0 k1 c d b)) ∧
  ∀ s : State, s.engine.phase = .idle ∨ s.engine.phase = .absorb →
    ∃ t : State, exec .finalize s = .next t ∧ t.engine.err = .missingInput ∧ t.engine.phase = .error ∧
      t.engine.result = s.engine.result

/-! ## Headline statements -/

/-- R111: the Compute protocol equals the reference function, from any phase, for every message, key and pair of positive
counts, whatever the upper bytes of the last word written to MSG. -/
def Obligations.ComputeProtocolEqualsSipHash : Prop :=
  ∀ (s : State) (b : List Byte) (m : Word) (rest : List Event),
    s.engine.cfgC ≠ 0 → s.engine.cfgD ≠ 0 →
    (∀ j : Nat, j < b.length % 8 → b[8 * (b.length / 8) + j]? = some (lane m j)) →
    s.inbox = HostProgram.events (HostProgram.computeCore b m) ++ rest →
    ∃ t : State, Sys2Proof.core.run (HostProgram.computeCore b m).length s = .next t ∧
      t.inbox = rest ∧ t.engine.phase = .done ∧ t.engine.err = .none ∧
      t.engine.len = BitVec.ofNat 64 b.length ∧
      t.engine.result =
        sipHash s.engine.key0 s.engine.key1 s.engine.cfgC.toNat s.engine.cfgD.toNat b

/-- R110, R101, R135: NEW and the whole Compute protocol, from any state that is not Locked: STATUS reads 0x3, and the RESULT
read returns the hash under the key and counts NEW loaded. -/
def Obligations.ComputeProgramReturnsTheHash : Prop :=
  ∀ (s : State) (k0 k1 : Word) (c d : BitVec 16) (b : List Byte) (rest : List Event),
    c ≠ 0 → d ≠ 0 → s.engine.locked = false →
    s.inbox =
      HostProgram.events
        (HostProgram.new k0 k1 (c.setWidth 64) (d.setWidth 64) ++ HostProgram.compute b) ++ rest →
    ∃ t u : State,
      Sys2Proof.core.run (3 + (HostProgram.compute b).length - 1) s = .next t ∧
      t.response = some (.data 0x3) ∧ ResultTrusted t.engine ∧
      step t = .next u ∧ u.inbox = rest ∧
      u.response = some (.data (sipHash k0 k1 c.toNat d.toNat b))

/-- R137: the Compute protocol issues floor(L/8) + 3 commands, and 2·floor(L/8) + 4 accesses in all. -/
def Obligations.ComputeProtocolLength : Prop :=
  ∀ (b : List Byte) (m : Word),
    ((HostProgram.computeCore b m).filter fun a => a.off == 0x08).length = b.length / 8 + 3 ∧
    (HostProgram.computeCore b m).length = 2 * (b.length / 8) + 4

/-- R36: every step keeps the seven invariants, from every state that has them. -/
def Obligations.StepKeepsTheInvariants : Prop :=
  ∀ s t : State, Invariants s → step s = .next t → Invariants t

/-- R36: the reset state has the seven invariants. -/
def Obligations.ResetHasTheInvariants : Prop :=
  Invariants State.reset

/-- R36: the invariants hold in every state a host program of any accesses and resets can reach from reset. -/
def Obligations.ReachableStatesHaveTheInvariants : Prop :=
  ∀ (p : List Event) (k : Nat) (t : State),
    Sys2Proof.core.run k { State.reset with inbox := p } = .next t → Invariants t
end

