-- ==== Sys2Proof/Laws/Datapath.lean ====
section
/-! SUPPORT. The datapath's small lemmas: rotation is the library's, and the rounds and blocks iterate. -/

namespace Sys2Proof.Machine

@[simp] theorem add64_eq (a b : Word) : add64 a b = a + b := rfl

@[simp] theorem xor64_eq (a b : Word) : xor64 a b = a ^^^ b := rfl

/-- R69's formula is the library's left rotation, for an amount below 64. -/
theorem rotl_eq_rotateLeft (a : Word) {n : Nat} (h : n < 64) : rotl a n = a.rotateLeft n := by
  simp [rotl, BitVec.rotateLeft, BitVec.rotateLeftAux, Nat.mod_eq_of_lt h]

@[simp] theorem sipRounds_zero (v : V4) : sipRounds v 0 = v := rfl

@[simp] theorem sipRounds_succ (v : V4) (n : Nat) : sipRounds v (n + 1) = sipRounds (sipRound v) n := rfl

@[simp] theorem compress_nil (v : V4) (c : Nat) : compress v [] c = v := rfl

@[simp] theorem compress_cons (v : V4) (m : Word) (ms : List Word) (c : Nat) :
    compress v (m :: ms) c = compress (compressBlock v m c) ms c := rfl

/-- R77: blocks are compressed strictly in order. -/
theorem compress_append (v : V4) (ms ns : List Word) (c : Nat) :
    compress v (ms ++ ns) c = compress (compress v ms c) ns c := List.foldl_append

/-- R74: there are floor(L/8) full blocks. -/
@[simp] theorem fullBlocks_length (b : List Byte) : (fullBlocks b).length = b.length / 8 := by
  simp [fullBlocks]

/-- R75: there are L mod 8 trailing bytes. -/
@[simp] theorem trailing_length (b : List Byte) : (trailing b).length = b.length % 8 := by
  simp [trailing]; omega

@[simp] theorem le64_nil : le64 [] = 0 := rfl

@[simp] theorem le64_cons (x : Byte) (bs : List Byte) : le64 (x :: bs) = x.setWidth 64 ||| (le64 bs <<< 8) := rfl

/-- R8: the bits of a byte lane. -/
theorem getLsbD_lane (w : Word) (j : Nat) {k : Nat} (hk : k < 8) : (lane w j).getLsbD k = w.getLsbD (8 * j + k) := by
  simp [lane, hk]

theorem lane_or (a b : Word) (j : Nat) : lane (a ||| b) j = lane a j ||| lane b j := by
  apply BitVec.eq_of_getLsbD_eq
  intro k hk
  simp [getLsbD_lane _ _ hk]

/-- R12: lane j of LE64 is byte j of the list, and 0 past its end. -/
theorem lane_le64 (b : List Byte) {j : Nat} (hj : j < 8) : lane (le64 b) j = b[j]?.getD 0 := by
  induction b generalizing j with
  | nil => simp [lane]
  | cons x xs ih =>
    apply BitVec.eq_of_getLsbD_eq
    intro k hk
    rw [getLsbD_lane _ _ hk, le64_cons, BitVec.getLsbD_or, BitVec.getLsbD_setWidth, BitVec.getLsbD_shiftLeft]
    cases j with
    | zero => simp [hk, show k < 64 by omega]
    | succ j =>
      have hx : x.getLsbD (8 * (j + 1) + k) = false := BitVec.getLsbD_of_ge _ _ (by omega)
      have hj' := congrArg (fun y => y.getLsbD k) (ih (j := j) (by omega))
      rw [getLsbD_lane _ _ hk] at hj'
      simpa [hx, show 8 * (j + 1) + k < 64 by omega, show ¬8 * (j + 1) + k < 8 by omega,
        show 8 * (j + 1) + k - 8 = 8 * j + k by omega] using hj'

/-- R75: a tag shifted to bits 63:56 leaves the lower lanes 0. -/
theorem lane_tag_of_lt (x : Word) {j : Nat} (h : j < 7) : lane (x <<< 56) j = 0 := by
  apply BitVec.eq_of_getLsbD_eq
  intro k hk
  simp [getLsbD_lane _ _ hk, show 8 * j + k < 56 by omega]

/-- R75: a tag shifted to bits 63:56 is lane 7. -/
theorem lane_tag_seven (x : Word) : lane (x <<< 56) 7 = x.setWidth 8 := by
  apply BitVec.eq_of_getLsbD_eq
  intro k hk
  rw [getLsbD_lane _ _ hk, BitVec.getLsbD_shiftLeft, BitVec.getLsbD_setWidth]
  simp [hk, show 8 * 7 + k < 64 by omega, show 8 * 7 + k - 56 = k by omega]

/-- R106: the mask keeps exactly the low 8n bits. -/
theorem getLsbD_tailMask (n : BitVec 3) {i : Nat} (hi : i < 64) :
    (tailMask n).getLsbD i = decide (i < 8 * n.toNat) := by
  have hm : tailMask n = BitVec.ofNat 64 (2 ^ (8 * n.toNat) - 1) := by
    unfold tailMask; revert n; decide
  rw [hm, BitVec.getLsbD_ofNat, Nat.testBit_two_pow_sub_one]; simp [hi]

/-- R106: lane by lane, the mask keeps the low n bytes and clears the others. -/
theorem lane_and_tailMask (w : Word) (n : BitVec 3) {j : Nat} (hj : j < 8) :
    lane (w &&& tailMask n) j = if j < n.toNat then lane w j else 0 := by
  apply BitVec.eq_of_getLsbD_eq
  intro k hk
  rw [getLsbD_lane _ _ hk, BitVec.getLsbD_and, getLsbD_tailMask n (show 8 * j + k < 64 by omega)]
  by_cases h : j < n.toNat
  · rw [if_pos h, getLsbD_lane _ _ hk]; simp [show 8 * j + k < 8 * n.toNat by omega]
  · rw [if_neg h]; simp [show ¬8 * j + k < 8 * n.toNat by omega]

/-- Two words with the same eight lanes are equal. -/
theorem eq_of_lane_eq {a b : Word} (h : ∀ j, j < 8 → lane a j = lane b j) : a = b := by
  apply BitVec.eq_of_getLsbD_eq
  intro i hi
  have hl := congrArg (fun y => y.getLsbD (i % 8)) (h (i / 8) (by omega))
  simp only [getLsbD_lane _ _ (show i % 8 < 8 by omega)] at hl
  rwa [show 8 * (i / 8) + i % 8 = i by omega] at hl

end Sys2Proof.Machine
end

