-- ==== Sys2Proof/Laws/Decode.lean ====
section
/-! SUPPORT. The register map both ways, and what the dispatch of an access can answer. -/

namespace Sys2Proof

/-- R38: each register stands at its offset. -/
@[simp] theorem regAt_offset (r : Reg) : regAt r.offset = some r := by cases r <;> rfl

/-- R38: an offset that holds a register is that register's. -/
theorem offset_of_regAt {off : Nat} {r : Reg} (h : regAt off = some r) : off = r.offset := by
  unfold regAt at h
  split at h <;> first
    | (injection h with h; subst h; rfl)
    | cases h

/-- R38: every register's offset lies in the block, aligned, and is not a reserved one. -/
theorem Reg.offset_accepted (r : Reg) :
    r.offset < 128 ∧ r.offset % 8 = 0 ∧ r.offset ≠ 0x68 ∧ r.offset ≠ 0x70 ∧ r.offset ≠ 0x78 := by
  cases r <;> decide

/-- R83: an 8-byte read of a register is accepted. -/
@[simp] theorem decodeBus_read (r : Reg) : decodeBus r.read = .ok (rdInstr r) := by cases r <;> rfl

/-- R93: an 8-byte write of a register is accepted. -/
@[simp] theorem decodeBus_write (r : Reg) (v : Word) : decodeBus (r.write v) = .ok (wrInstr r v) := by
  cases r <;> simp [decodeBus, busErrorAccess, regAt, Reg.write, Reg.offset, Access.off, Access.width, Access.instrOn]

/-- R83, R93: an accepted access is an 8-byte access of a register. -/
theorem decodeBus_ok {a : Access} {i : Instr} (h : decodeBus a = .ok i) :
    ∃ r : Reg, (a = r.read ∧ i = rdInstr r) ∨ ∃ v, a = r.write v ∧ i = wrInstr r v := by
  unfold decodeBus at h
  split at h
  · split at h
    · cases h
    · rename_i hb
      split at h
      · rename_i r hr
        injection h with h
        have ho := offset_of_regAt hr
        cases a with
        | rd n off =>
          have hn : n = 8 := by simp [busErrorAccess, Access.width] at hb; exact hb.1.1.1.1
          exact ⟨r, .inl ⟨by simp_all [Reg.read, Access.off], by simp [← h, Access.instrOn]⟩⟩
        | wr n off v =>
          have hn : n = 8 := by simp [busErrorAccess, Access.width] at hb; exact hb.1.1.1.1
          exact ⟨r, .inr ⟨v, by simp_all [Reg.write, Access.off], by simp [← h, Access.instrOn]⟩⟩
      · cases h
  · cases h

/-- R43: a refused access answers with its own offset. -/
theorem decodeBus_busError {a : Access} {off : Nat} (h : decodeBus a = .error (.busError off)) :
    a.off < 128 ∧ off = a.off := by
  unfold decodeBus at h
  split at h
  · rename_i hlt
    split at h
    · injection h with h; injection h with h; exact ⟨hlt, h.symm⟩
    · split at h
      · cases h
      · injection h with h; injection h with h; exact ⟨hlt, h.symm⟩
  · injection h with h; cases h

end Sys2Proof
end

