-- ==== Sys2Proof/Laws/State.lean ====
section
/-! SUPPORT. One lemma per field of the engine per named update of it, so that no later proof unfolds one. -/

namespace Sys2Proof.Machine

variable (v : V4) (p : Phase) (e : Engine) (code : Err) (info : Byte)

@[simp] theorem Engine.restart_v : (e.restart v p).v = v := rfl
@[simp] theorem Engine.restart_key0 : (e.restart v p).key0 = e.key0 := rfl
@[simp] theorem Engine.restart_key1 : (e.restart v p).key1 = e.key1 := rfl
@[simp] theorem Engine.restart_cfgC : (e.restart v p).cfgC = e.cfgC := rfl
@[simp] theorem Engine.restart_cfgD : (e.restart v p).cfgD = e.cfgD := rfl
@[simp] theorem Engine.restart_msg : (e.restart v p).msg = e.msg := rfl
@[simp] theorem Engine.restart_phase : (e.restart v p).phase = p := rfl
@[simp] theorem Engine.restart_err : (e.restart v p).err = .none := rfl
@[simp] theorem Engine.restart_errInfo : (e.restart v p).errInfo = 0 := rfl
@[simp] theorem Engine.restart_len : (e.restart v p).len = 0 := rfl
@[simp] theorem Engine.restart_result : (e.restart v p).result = 0 := rfl

@[simp] theorem Engine.zeroRounds_v : e.zeroRounds.v = e.v := rfl
@[simp] theorem Engine.zeroRounds_key0 : e.zeroRounds.key0 = e.key0 := rfl
@[simp] theorem Engine.zeroRounds_key1 : e.zeroRounds.key1 = e.key1 := rfl
@[simp] theorem Engine.zeroRounds_cfgC : e.zeroRounds.cfgC = e.cfgC := rfl
@[simp] theorem Engine.zeroRounds_cfgD : e.zeroRounds.cfgD = e.cfgD := rfl
@[simp] theorem Engine.zeroRounds_msg : e.zeroRounds.msg = e.msg := rfl
@[simp] theorem Engine.zeroRounds_phase : e.zeroRounds.phase = .error := rfl
@[simp] theorem Engine.zeroRounds_err : e.zeroRounds.err = .zeroRounds := rfl
@[simp] theorem Engine.zeroRounds_errInfo : e.zeroRounds.errInfo = 0x01 := rfl
@[simp] theorem Engine.zeroRounds_len : e.zeroRounds.len = e.len := rfl
@[simp] theorem Engine.zeroRounds_result : e.zeroRounds.result = e.result := rfl

/-- R115: outside ERROR, raising is this update. -/
theorem Engine.raise_eq_of_ne (h : e.phase ≠ .error) :
    e.raise code info = { e with err := code, errInfo := info, phase := .error } := if_neg h

/-- R115: in ERROR, raising changes nothing. -/
theorem Engine.raise_eq_of_error (h : e.phase = .error) : e.raise code info = e := if_pos h

@[simp] theorem Engine.raise_v : (e.raise code info).v = e.v := by
  unfold Engine.raise; split <;> rfl
@[simp] theorem Engine.raise_key0 : (e.raise code info).key0 = e.key0 := by
  unfold Engine.raise; split <;> rfl
@[simp] theorem Engine.raise_key1 : (e.raise code info).key1 = e.key1 := by
  unfold Engine.raise; split <;> rfl
@[simp] theorem Engine.raise_cfgC : (e.raise code info).cfgC = e.cfgC := by
  unfold Engine.raise; split <;> rfl
@[simp] theorem Engine.raise_cfgD : (e.raise code info).cfgD = e.cfgD := by
  unfold Engine.raise; split <;> rfl
@[simp] theorem Engine.raise_msg : (e.raise code info).msg = e.msg := by
  unfold Engine.raise; split <;> rfl
@[simp] theorem Engine.raise_len : (e.raise code info).len = e.len := by
  unfold Engine.raise; split <;> rfl
@[simp] theorem Engine.raise_result : (e.raise code info).result = e.result := by
  unfold Engine.raise; split <;> rfl

/-- Raising always leaves the engine in ERROR. -/
@[simp] theorem Engine.raise_phase : (e.raise code info).phase = .error := by
  unfold Engine.raise
  split
  · assumption
  · rfl

end Sys2Proof.Machine
end

