-- ==== Sys2Proof/Laws/Ops.lean ====
section
/-! SUPPORT. One lemma per shared operation that says everything it can do, and what exec does with any instruction. -/

namespace Sys2Proof.Machine

/-- R83: all that a read does. -/
theorem answer_next {r : Reg} {s t : State} (h : answer r s = .next t) :
    t = { s with response := some (.data (s.engine.readReg r)) } := by
  injection h with h; exact h.symm

/-- R93: all that a write or a command does, given its effect on the engine. -/
theorem commit_next {f : Engine → Engine} {s t : State} (h : commit f s = .next t) :
    t = { s with engine := f s.engine, response := some .ok } := by
  injection h with h; exact h.symm

/-- R100: Locked is ABSORB or TAILED. -/
theorem Engine.locked_iff (e : Engine) : e.locked = true ↔ e.phase = .absorb ∨ e.phase = .tailed := by
  simp [Engine.locked]

/-- R95–R97: a guarded write stores, or raises LOCKED and stores nothing. -/
theorem Engine.guardedWrite_cases (off : Byte) (store : Engine → Engine) (e : Engine) :
    (e.locked = false ∧ e.guardedWrite off store = store e) ∨
    (e.locked = true ∧
      e.guardedWrite off store = { e with err := .locked, errInfo := off, phase := .error }) := by
  cases h : e.locked with
  | false => exact .inl ⟨rfl, by simp [Engine.guardedWrite, h]⟩
  | true =>
    refine .inr ⟨rfl, ?_⟩
    have hne : e.phase ≠ .error := by rcases (e.locked_iff).1 h with h | h <;> simp [h]
    simp [Engine.guardedWrite, h, Engine.raise_eq_of_ne _ _ _ hne]

/-- R104: the two cases of INIT. -/
theorem Engine.init_cases (e : Engine) :
    ((e.cfgC = 0 ∨ e.cfgD = 0) ∧ e.init = e.zeroRounds) ∨
    (e.cfgC ≠ 0 ∧ e.cfgD ≠ 0 ∧ e.init = e.restart (initState e.key0 e.key1) .absorb) := by
  by_cases h : e.cfgC = 0 ∨ e.cfgD = 0
  · exact .inl ⟨h, if_pos h⟩
  · exact .inr ⟨fun hc => h (.inl hc), fun hd => h (.inr hd), if_neg h⟩

/-- R105: the three cases of ABSORB. -/
theorem Engine.absorb_cases (e : Engine) :
    (e.phase = .absorb ∧
      e.absorb = { e with v := compressBlock e.v e.msg e.rounds, len := e.len + 8 }) ∨
    (e.phase = .error ∧ e.absorb = e) ∨
    (e.phase ≠ .absorb ∧ e.phase ≠ .error ∧
      e.absorb = { e with err := .sequence, errInfo := 0x02, phase := .error }) := by
  cases h : e.phase <;> simp [Engine.absorb, Engine.raise, h]

/-- R106: the three cases of TAIL. -/
theorem Engine.tail_cases (n : BitVec 3) (e : Engine) :
    (e.phase = .absorb ∧
      e.tail n =
        { e with
          v := compressBlock e.v (e.tailBlock n) e.rounds, len := e.tailLength n, phase := .tailed }) ∨
    (e.phase = .error ∧ e.tail n = e) ∨
    (e.phase ≠ .absorb ∧ e.phase ≠ .error ∧
      e.tail n = { e with err := .sequence, errInfo := 0x03, phase := .error }) := by
  cases h : e.phase <;> simp [Engine.tail, Engine.raise, h]

/-- R107: the four cases of FINALIZE. -/
theorem Engine.finalize_cases (e : Engine) :
    (e.phase = .tailed ∧
      e.finalize =
        { e with
          v := (finalizeState e.v e.finalRounds).2, result := (finalizeState e.v e.finalRounds).1
          phase := .done }) ∨
    (e.phase = .error ∧ e.finalize = e) ∨
    (e.phase = .done ∧ e.finalize = { e with err := .sequence, errInfo := 0x04, phase := .error }) ∨
    ((e.phase = .idle ∨ e.phase = .absorb) ∧
      e.finalize = { e with err := .missingInput, errInfo := 0x04, phase := .error }) := by
  cases h : e.phase <;> simp [Engine.finalize, Engine.raise, h]

/-- R102: a word is run as the command it decodes to, or raises ILLEGAL_CMD, or is ignored in ERROR. -/
theorem Engine.execCmd_cases (w : Word) (e : Engine) :
    (∃ c, decodeCmd w = .ok c ∧ e.execCmd w = e.runCommand c) ∨
    (∃ opc, decodeCmd w = .error opc ∧ e.phase = .error ∧ e.execCmd w = e) ∨
    (∃ opc, decodeCmd w = .error opc ∧ e.phase ≠ .error ∧
      e.execCmd w = { e with err := .illegalCmd, errInfo := opc, phase := .error }) := by
  cases hd : decodeCmd w with
  | ok c => exact .inl ⟨c, rfl, by simp [Engine.execCmd, hd]⟩
  | error opc =>
    by_cases h : e.phase = .error
    · exact .inr (.inl ⟨opc, rfl, h, by simp [Engine.execCmd, hd, h]⟩)
    · exact .inr (.inr ⟨opc, rfl, h, by simp [Engine.execCmd, hd, h, Engine.raise]⟩)

/-- What an instruction does to the engine. -/
def Engine.effect (i : Instr) (e : Engine) : Engine :=
  match i with
  | .nop | .rdId | .rdCmd | .rdStatus | .rdCfg | .rdKey0 | .rdKey1 | .rdMsg | .rdLen | .rdResult | .rdConst0
  | .rdConst1 | .rdConst2 | .rdConst3 | .wrId _ | .wrStatus _ | .wrLen _ | .wrResult _ | .wrConst0 _
  | .wrConst1 _ | .wrConst2 _ | .wrConst3 _ => e
  | .init => e.init
  | .absorb => e.absorb
  | .tail n => e.tail n
  | .finalize => e.finalize
  | .abort => e.abort
  | .wrCmd w => e.execCmd w
  | .wrCfg v => e.guardedWrite 0x18 fun e => { e with cfgC := cfgCOf v, cfgD := cfgDOf v }
  | .wrKey0 v => e.guardedWrite 0x20 fun e => { e with key0 := v }
  | .wrKey1 v => e.guardedWrite 0x28 fun e => { e with key1 := v }
  | .wrMsg v => { e with msg := v }

/-- What an instruction responds: a read the register's value, anything else OK. -/
def Engine.reply (i : Instr) (e : Engine) : Response :=
  match i with
  | .rdId => .data (e.readReg .id)
  | .rdCmd => .data (e.readReg .cmd)
  | .rdStatus => .data (e.readReg .status)
  | .rdCfg => .data (e.readReg .cfg)
  | .rdKey0 => .data (e.readReg .key0)
  | .rdKey1 => .data (e.readReg .key1)
  | .rdMsg => .data (e.readReg .msg)
  | .rdLen => .data (e.readReg .len)
  | .rdResult => .data (e.readReg .result)
  | .rdConst0 => .data (e.readReg .const0)
  | .rdConst1 => .data (e.readReg .const1)
  | .rdConst2 => .data (e.readReg .const2)
  | .rdConst3 => .data (e.readReg .const3)
  | .nop | .init | .absorb | .tail _ | .finalize | .abort | .wrCmd _ | .wrCfg _ | .wrKey0 _ | .wrKey1 _
  | .wrMsg _ | .wrId _ | .wrStatus _ | .wrLen _ | .wrResult _ | .wrConst0 _ | .wrConst1 _ | .wrConst2 _
  | .wrConst3 _ => .ok

/-- R45: a read has no effect on the engine. -/
@[simp] theorem Engine.effect_rdInstr (r : Reg) (e : Engine) : e.effect (rdInstr r) = e := by cases r <;> rfl

/-- R83: a read responds the register's value. -/
@[simp] theorem Engine.reply_rdInstr (r : Reg) (e : Engine) : e.reply (rdInstr r) = .data (e.readReg r) := by
  cases r <;> rfl

/-- R93, R120: a write responds OK. -/
@[simp] theorem Engine.reply_wrInstr (r : Reg) (v : Word) (e : Engine) : e.reply (wrInstr r v) = .ok := by
  cases r <;> rfl

/-- A command's instruction has the command's effect. -/
@[simp] theorem Engine.effect_toInstr (c : Command) (e : Engine) : e.effect c.toInstr = e.runCommand c := by
  cases c <;> rfl

/-- R109: a command responds OK. -/
@[simp] theorem Engine.reply_toInstr (c : Command) (e : Engine) : e.reply c.toInstr = .ok := by cases c <;> rfl

/-- Every instruction completes in every state: its effect on the engine, its response, and nothing else. -/
theorem exec_eq (i : Instr) (s : State) :
    exec i s = .next { s with engine := s.engine.effect i, response := some (s.engine.reply i) } := by
  cases i <;> rfl

/-- All that an instruction does. -/
theorem exec_next {i : Instr} {s t : State} (h : exec i s = .next t) :
    t = { s with engine := s.engine.effect i, response := some (s.engine.reply i) } := by
  rw [exec_eq] at h; injection h with h; exact h.symm

end Sys2Proof.Machine
end

