-- ==== Sys2Proof/Laws/PerInstr.lean ====
section
/-! SUPPORT. Per instruction: its encoding is well formed by the spec's own tables (opcode_table.json, R38). -/

namespace Sys2Proof.Laws.Encodable

/-- The encoding of the instruction, with any operand, is well formed. -/
def Statement (i : Instr) : Prop := (encode i).wf = true

theorem nop : Statement .nop := rfl

theorem init : Statement .init := rfl

theorem absorb : Statement .absorb := rfl

theorem tail (n : BitVec 3) : Statement (.tail n) := by revert n; unfold Statement; decide

theorem finalize : Statement .finalize := rfl

theorem abort : Statement .abort := rfl

theorem rdId : Statement .rdId := rfl

theorem rdCmd : Statement .rdCmd := rfl

theorem rdStatus : Statement .rdStatus := rfl

theorem rdCfg : Statement .rdCfg := rfl

theorem rdKey0 : Statement .rdKey0 := rfl

theorem rdKey1 : Statement .rdKey1 := rfl

theorem rdMsg : Statement .rdMsg := rfl

theorem rdLen : Statement .rdLen := rfl

theorem rdResult : Statement .rdResult := rfl

theorem rdConst0 : Statement .rdConst0 := rfl

theorem rdConst1 : Statement .rdConst1 := rfl

theorem rdConst2 : Statement .rdConst2 := rfl

theorem rdConst3 : Statement .rdConst3 := rfl

theorem wrCmd (v : Word) : Statement (.wrCmd v) := rfl

theorem wrCfg (v : Word) : Statement (.wrCfg v) := rfl

theorem wrKey0 (v : Word) : Statement (.wrKey0 v) := rfl

theorem wrKey1 (v : Word) : Statement (.wrKey1 v) := rfl

theorem wrMsg (v : Word) : Statement (.wrMsg v) := rfl

theorem wrId (v : Word) : Statement (.wrId v) := rfl

theorem wrStatus (v : Word) : Statement (.wrStatus v) := rfl

theorem wrLen (v : Word) : Statement (.wrLen v) := rfl

theorem wrResult (v : Word) : Statement (.wrResult v) := rfl

theorem wrConst0 (v : Word) : Statement (.wrConst0 v) := rfl

theorem wrConst1 (v : Word) : Statement (.wrConst1 v) := rfl

theorem wrConst2 (v : Word) : Statement (.wrConst2 v) := rfl

theorem wrConst3 (v : Word) : Statement (.wrConst3 v) := rfl

end Sys2Proof.Laws.Encodable
end

