-- ==== Sys2Proof/Laws/Step.lean ====
section
/-! SUPPORT. What one step can do. -/

namespace Sys2Proof.Machine

/-- R126: with nothing pending the step keeps the state. -/
theorem step_of_nil {s : State} (h : s.inbox = []) : step s = .next s := by
  simp [step, nextEvent, h, idle]

/-- R127: RESET. -/
theorem step_of_reset {s : State} {c : Option Access} {rest : List Event} (h : s.inbox = .reset c :: rest) :
    step s =
      .next { engine := Engine.reset, inbox := rest, response := c.bind Config.busErrorResponse } := by
  simp [step, nextEvent, h, applyReset]

/-- R83, R93: an accepted access has its instruction's effect and response. -/
theorem step_of_accepted {s : State} {a : Access} {i : Instr} {rest : List Event}
    (h : s.inbox = .access a :: rest) (hd : decodeBus a = .ok i) :
    step s =
      .next { engine := s.engine.effect i, inbox := rest, response := some (s.engine.reply i) } := by
  simp [step, nextEvent, h, hd, exec_eq]

/-- R43: a refused access. -/
theorem step_of_busError {s : State} {a : Access} {off : Nat} {rest : List Event}
    (h : s.inbox = .access a :: rest) (hd : decodeBus a = .error (.busError off)) :
    step s = .next { s with inbox := rest, response := some (.busError off) } := by
  simp [step, nextEvent, h, hd, rejectAccess]

/-- R37: an access outside the block. -/
theorem step_of_outside {s : State} {a : Access} {off : Nat} {rest : List Event}
    (h : s.inbox = .access a :: rest) (hd : decodeBus a = .error (.outsideBlock off)) :
    step s = .fault (.outsideBlock off) := by
  simp [step, nextEvent, h, hd, rejectAccess]

/-- R83: the step of an 8-byte read of a register. -/
theorem step_read (r : Reg) (e : Engine) (rest : List Event) (q : Option Response) :
    step ⟨e, .access r.read :: rest, q⟩ = .next ⟨e, rest, some (.data (e.readReg r))⟩ := by
  rw [step_of_accepted rfl (decodeBus_read r)]; simp

/-- R93: the step of an 8-byte write of a register. -/
theorem step_write (r : Reg) (v : Word) (e : Engine) (rest : List Event) (q : Option Response) :
    step ⟨e, .access (r.write v) :: rest, q⟩ = .next ⟨e.effect (wrInstr r v), rest, some .ok⟩ := by
  rw [step_of_accepted rfl (decodeBus_write r v)]; simp

/-- Everything a step that answers a next state can have done. -/
theorem step_cases {s t : State} (h : step s = .next t) :
    (s.inbox = [] ∧ t = s) ∨
    (∃ c rest, s.inbox = .reset c :: rest ∧
      t = { engine := Engine.reset, inbox := rest, response := c.bind Config.busErrorResponse }) ∨
    (∃ a i rest, s.inbox = .access a :: rest ∧ decodeBus a = .ok i ∧
      t = { engine := s.engine.effect i, inbox := rest, response := some (s.engine.reply i) }) ∨
    (∃ a off rest, s.inbox = .access a :: rest ∧ decodeBus a = .error (.busError off) ∧
      t = { s with inbox := rest, response := some (.busError off) }) := by
  match hi : s.inbox with
  | [] => rw [step_of_nil hi] at h; injection h with h; exact .inl ⟨rfl, h.symm⟩
  | .reset c :: rest =>
    rw [step_of_reset hi] at h; injection h with h
    exact .inr (.inl ⟨c, rest, rfl, h.symm⟩)
  | .access a :: rest =>
    cases hd : decodeBus a with
    | ok i =>
      rw [step_of_accepted hi hd] at h; injection h with h
      exact .inr (.inr (.inl ⟨a, i, rest, rfl, hd, h.symm⟩))
    | error r =>
      cases r with
      | busError off =>
        rw [step_of_busError hi hd] at h; injection h with h
        exact .inr (.inr (.inr ⟨a, off, rest, rfl, hd, h.symm⟩))
      | outsideBlock off =>
        rw [step_of_outside hi hd] at h; cases h

end Sys2Proof.Machine
end

