-- ==== Sys2Proof/Laws/Run.lean ====
section
/-! SUPPORT. Runs of several steps: one step more, and runs one after another. -/

namespace Sys2Proof.Laws

/-- A run whose first step answers `t` goes on from `t`. -/
theorem core_run_succ (M : Host.Core) {k : Nat} {s t : M.State} (h : M.step s = .next t) :
    M.run (k + 1) s = M.run k t := by
  rw [Host.Core.run.eq_def]
  simp only [h]

/-- A run of `k + m` steps is a run of `k` and then one of `m`. -/
theorem core_run_add (M : Host.Core) {k m : Nat} {s t : M.State} (h : M.run k s = .next t) :
    M.run (k + m) s = M.run m t := by
  induction k generalizing s with
  | zero =>
    rw [Host.Core.run.eq_def] at h
    injection h with h
    rw [h, Nat.zero_add]
  | succ k ih =>
    rw [Nat.succ_add]
    cases hs : M.step s with
    | next u =>
      rw [core_run_succ M hs] at h
      rw [core_run_succ M hs]
      exact ih h
    | fault r => rw [Host.Core.run.eq_def] at h; simp only [hs] at h; cases h
    | refused r => rw [Host.Core.run.eq_def] at h; simp only [hs] at h; cases h

/-- A run of at least one step that ends in a next state took a first step that did. -/
theorem core_run_succ_inv (M : Host.Core) {k : Nat} {s t : M.State} (h : M.run (k + 1) s = .next t) :
    ∃ u, M.step s = .next u ∧ M.run k u = .next t := by
  cases hs : M.step s with
  | next u => exact ⟨u, rfl, core_run_succ M hs ▸ h⟩
  | fault r => rw [Host.Core.run.eq_def] at h; simp only [hs] at h; cases h
  | refused r => rw [Host.Core.run.eq_def] at h; simp only [hs] at h; cases h

end Sys2Proof.Laws

namespace Sys2Proof.Machine

theorem run_zero (s : State) : Sys2Proof.core.run 0 s = .next s := rfl

/-- A run of this machine whose first step answers `t` goes on from `t`. -/
theorem run_succ_of_step {k : Nat} {s t : State} (h : step s = .next t) :
    Sys2Proof.core.run (k + 1) s = Sys2Proof.core.run k t := Sys2Proof.Laws.core_run_succ Sys2Proof.core h

/-- A run of this machine of `k + m` steps is a run of `k` and then one of `m`. -/
theorem run_add_of_run {k m : Nat} {s t : State} (h : Sys2Proof.core.run k s = .next t) :
    Sys2Proof.core.run (k + m) s = Sys2Proof.core.run m t := Sys2Proof.Laws.core_run_add Sys2Proof.core h

/-- A run of this machine of at least one step that ends in a next state took a first step that did. -/
theorem step_of_run_succ {k : Nat} {s t : State} (h : Sys2Proof.core.run (k + 1) s = .next t) :
    ∃ u, step s = .next u ∧ Sys2Proof.core.run k u = .next t := Sys2Proof.Laws.core_run_succ_inv Sys2Proof.core h

end Sys2Proof.Machine
end

