-- ==== Sys2Proof/Tests/Slice0.lean ====
section
/-! SUPPORT. Tests. Expected values come from the spec: the encodings of 30_encoding.md and 20_memory.md, and the vectors of
95_test_vectors.md, named TV-… and P… here. After them, for every statement with hypotheses, states and operands that meet
them. -/

namespace Sys2Proof.Tests

open Sys2Proof.Machine Sys2Proof.Safety

/-! ## Small states -/

/-- The KAT key, k0. -/
def katKey0 : Word := 0x0706050403020100

/-- The KAT key, k1. -/
def katKey1 : Word := 0x0f0e0d0c0b0a0908

/-- TV-CMD, IDLE. -/
def idleEngine : Engine := { Engine.reset with key0 := katKey0, key1 := katKey1 }

/-- TV-I, the state INIT makes of the KAT key. -/
def katInit : V4 := ⟨0x7469686173716475, 0x6b617f6d656e6665, 0x6b7f62616d677361, 0x7b6b696e727e6c7b⟩

/-- TV-KAT, after ABSORB. -/
def katAbsorbed : V4 := ⟨0x4a017198de0a59e0, 0x0d52f6f62a4f59a4, 0x634cb3577b01fd3d, 0xa5224d6f55c7d9c8⟩

/-- TV-KAT, after TAIL 7. -/
def katTailed : V4 := ⟨0x3c85b3ab6f55be51, 0x414fc3fb98efe374, 0xccf13ea527b9f4bd, 0x5293f5da84008f82⟩

/-- TV-KAT, after FINALIZE. -/
def katFinal : V4 := ⟨0xf6bcd53893fecff1, 0x54b9964c7ea0d937, 0x1b38329c099bb55a, 0x1814bb89ad7be679⟩

/-- TV-CMD, ABSORB. -/
def absorbEngine : Engine := { idleEngine with v := katInit, phase := .absorb }

/-- P1, TV-CMD, TAILED. -/
def tailedEngine : Engine :=
  { idleEngine with
    v := ⟨0x75126fd44af190b6, 0x084235164f06142b, 0x37b04f9f8026831d, 0x1b4678cde8253231⟩, phase := .tailed }

/-- P1, TV-CMD, DONE. -/
def doneEngine : Engine :=
  { idleEngine with
    v := ⟨0xe738d0dfdc9b2453, 0x214ac5771e0c4cd2, 0xe2ea71f68a57ef6d, 0x56f7bf1995ce89dd⟩
    phase := .done, result := 0x726fdb47dd0e0e31 }

/-- TV-CMD, ERROR. -/
def errorEngine : Engine := { doneEngine with phase := .error, err := .sequence, errInfo := 0x02 }

/-- A state with these events to come. -/
def stateOf (e : Engine) (evs : List Event := []) : State := ⟨e, evs, none⟩

/-- The engine after an instruction. -/
def engineAfter (i : Instr) (e : Engine) : Option Engine :=
  match exec i (stateOf e) with
  | .next t => some t.engine
  | _ => none

/-- What RD STATUS returns after an instruction. -/
def statusAfter (i : Instr) (e : Engine) : Option Word := (engineAfter i e).map Engine.statusWord

/-- The response of an instruction. -/
def responseOf (i : Instr) (e : Engine) : Option Response :=
  match exec i (stateOf e) with
  | .next t => t.response
  | _ => none

/-- The state after one step whose next event is this access. -/
def stepOn (e : Engine) (a : Access) : Option State :=
  match step (stateOf e [.access a]) with
  | .next t => some t
  | _ => none

/-- The message of bytes 00, 01, … of this length. -/
def counting (n : Nat) : List Byte := (List.range n).map fun i => BitVec.ofNat 8 i

/-! ## Well-formedness refuses -/

/-- R57: a reserved OPC. -/
theorem test_wf_refuses_opc : (Encoded.cmd 0x6).wf = false := by decide

/-- R59: a reserved bit. -/
theorem test_wf_refuses_rsv : (Encoded.cmd 0x800).wf = false := by decide

/-- R58: NB with a command other than TAIL. -/
theorem test_wf_refuses_nb : (Encoded.cmd 0x102).wf = false := by decide

/-- R37: an offset outside the block. -/
theorem test_wf_refuses_outside : (Encoded.bus (.rd 8 0x80)).wf = false ∧ (Access.rd 8 0x80).inBlock = false := by decide

/-- R43: a width of 4. -/
theorem test_wf_refuses_width : (Encoded.bus (.wr 4 0x30 5)).wf = false ∧ (Access.wr 4 0x30 5).widthWf = false := by
  decide

/-- R43: a misaligned and a reserved offset. -/
theorem test_wf_refuses_offset :
    (Access.rd 8 0x34).offsetWf = false ∧ (Access.rd 8 0x68).offsetWf = false ∧
    (Encoded.bus (.rd 8 0x34)).wf = false ∧ (Encoded.bus (.rd 8 0x68)).wf = false := by decide

/-! ## Decoding: every constructor, from the spec's encoding -/

/-- R53, R56: RSV at 63:11, NB at 10:8, OPC at 7:0. -/
theorem test_decode_commands :
    decodeTableWord 64 0x0000000000000000 = some .nop ∧
    decodeTableWord 64 0x0000000000000001 = some .init ∧
    decodeTableWord 64 0x0000000000000002 = some .absorb ∧
    decodeTableWord 64 0x0000000000000003 = some (.tail 0) ∧
    decodeTableWord 64 0x0000000000000503 = some (.tail 5) ∧
    decodeTableWord 64 0x0000000000000703 = some (.tail 7) ∧
    decodeTableWord 64 0x0000000000000004 = some .finalize ∧
    decodeTableWord 64 0x0000000000000005 = some .abort := by decide

/-- R55, TV-CMD, P5: illegal words. -/
theorem test_decode_illegal_commands :
    decodeTableWord 64 0x0000000000000006 = none ∧ decodeTableWord 64 0x00000000000000ff = none ∧
    decodeTableWord 64 0x0000000000000102 = none ∧ decodeTableWord 64 0x0000000000000803 = none ∧
    decodeTableWord 64 0x8000000000000003 = none ∧ decodeTableWord 64 0x0000000000000800 = none := by decide

/-- R38, R61: `RD` of each register. -/
theorem test_decode_reads :
    decode (.bus (.rd 8 0x00)) = .ok .rdId ∧ decode (.bus (.rd 8 0x08)) = .ok .rdCmd ∧
    decode (.bus (.rd 8 0x10)) = .ok .rdStatus ∧ decode (.bus (.rd 8 0x18)) = .ok .rdCfg ∧
    decode (.bus (.rd 8 0x20)) = .ok .rdKey0 ∧ decode (.bus (.rd 8 0x28)) = .ok .rdKey1 ∧
    decode (.bus (.rd 8 0x30)) = .ok .rdMsg ∧ decode (.bus (.rd 8 0x38)) = .ok .rdLen ∧
    decode (.bus (.rd 8 0x40)) = .ok .rdResult ∧ decode (.bus (.rd 8 0x48)) = .ok .rdConst0 ∧
    decode (.bus (.rd 8 0x50)) = .ok .rdConst1 ∧ decode (.bus (.rd 8 0x58)) = .ok .rdConst2 ∧
    decode (.bus (.rd 8 0x60)) = .ok .rdConst3 := ⟨rfl, rfl, rfl, rfl, rfl, rfl, rfl, rfl, rfl, rfl, rfl, rfl, rfl⟩

/-- R38, R61: `WR` of each register. -/
theorem test_decode_writes (v : Word) :
    decode (.bus (.wr 8 0x00 v)) = .ok (.wrId v) ∧ decode (.bus (.wr 8 0x08 v)) = .ok (.wrCmd v) ∧
    decode (.bus (.wr 8 0x10 v)) = .ok (.wrStatus v) ∧ decode (.bus (.wr 8 0x18 v)) = .ok (.wrCfg v) ∧
    decode (.bus (.wr 8 0x20 v)) = .ok (.wrKey0 v) ∧ decode (.bus (.wr 8 0x28 v)) = .ok (.wrKey1 v) ∧
    decode (.bus (.wr 8 0x30 v)) = .ok (.wrMsg v) ∧ decode (.bus (.wr 8 0x38 v)) = .ok (.wrLen v) ∧
    decode (.bus (.wr 8 0x40 v)) = .ok (.wrResult v) ∧ decode (.bus (.wr 8 0x48 v)) = .ok (.wrConst0 v) ∧
    decode (.bus (.wr 8 0x50 v)) = .ok (.wrConst1 v) ∧ decode (.bus (.wr 8 0x58 v)) = .ok (.wrConst2 v) ∧
    decode (.bus (.wr 8 0x60 v)) = .ok (.wrConst3 v) := by
  simp [decode, decodeBus, busErrorAccess, Access.width, Access.off, regAt, Access.instrOn, wrInstr]

/-- Log entry 12: a BUS row's table word, read with bit 7 clear and write with bit 7 set. -/
theorem test_decode_table_words :
    decodeTableWord 8 0x10 = some .rdStatus ∧ decodeTableWord 8 0x40 = some .rdResult ∧
    decodeTableWord 8 0xb0 = some (.wrMsg 0) ∧ decodeTableWord 8 0x68 = none ∧ decodeTableWord 8 0x34 = none := by
  decide

/-- The next step runs the word placed: INIT from reset enters ABSORB. -/
theorem test_withFetchWord :
    step (State.reset.withFetchWord 64 0x1) = exec .init State.reset ∧
    step (State.reset.withFetchWord 8 0x18) = exec .rdCfg State.reset := ⟨rfl, rfl⟩

/-! ## Datapath -/

/-- TV-A: Rotl64. -/
theorem test_rotl :
    rotl 0x8000000000000001 1 = 0x3 ∧ rotl 0x1 63 = 0x8000000000000000 ∧
    rotl 0x0123456789abcdef 13 = 0x68acf13579bde024 ∧ rotl 0x0123456789abcdef 17 = 0x8acf13579bde0246 ∧
    rotl 0x0123456789abcdef 21 = 0xacf13579bde02468 ∧ rotl 0x0123456789abcdef 32 = 0x89abcdef01234567 := by decide

/-- TV-A: Add64 wraps. -/
theorem test_add64 :
    add64 0xffffffffffffffff 0x2 = 0x1 ∧ add64 0x736f6d6570736575 0x646f72616e646f6d = 0xd7dedfc6ded7d4e2 := by
  decide

/-- TV-R: one round of (C0, C1, C2, C3). -/
theorem test_sipRound :
    sipRound ⟨c0, c1, c2, c3⟩ =
      ⟨0x639487965a898377, 0xfe651ba6cbca2366, 0x3b1450431a71bdd2, 0x35e4d2c22cb914e1⟩ := by decide

/-- TV-R: two rounds of (1, 0, 0, 0). -/
theorem test_sipRounds :
    sipRounds ⟨1, 0, 0, 0⟩ 2 =
      ⟨0x0003000300000001, 0x0002800700002001, 0x4002200100000003, 0x0043000300000021⟩ := by decide

/-- TV-E: lengths 0, 1, 8 and 9. -/
theorem test_encodeMessage :
    encodeMessage [] = [0x0000000000000000] ∧ encodeMessage (counting 1) = [0x0100000000000000] ∧
    encodeMessage (counting 8) = [0x0706050403020100, 0x0800000000000000] ∧
    encodeMessage (counting 9) = [0x0706050403020100, 0x0900000000000008] := by decide

/-- TV-B, second row. -/
theorem test_compressBlock :
    compressBlock ⟨0, 0, 0, 0⟩ 1 1 = ⟨0x10000, 0x1, 0x100000000, 0x2000210001⟩ := by decide

/-- TV-F, first row. -/
theorem test_finalizeState :
    finalizeState ⟨0, 0, 0, 0⟩ 1 = (0xff1fe000ff, ⟨0xff, 0xff, 0xff00000000, 0x1fe000ff⟩) := by decide

/-- S3, TV-H row 15, and row 16 of column c = 1, d = 1. -/
theorem test_sipHash :
    sipHash katKey0 katKey1 2 4 (counting 15) = 0xa129ca6149be45e5 ∧
    sipHash katKey0 katKey1 1 1 (counting 16) = 0x33ec3b996e51b55d := by decide

/-- TV-CMD: TAIL 3 with LEN = 8 and MSG all ones. -/
theorem test_tailBlock :
    Engine.tailBlock { absorbEngine with msg := 0xffffffffffffffff, len := 8 } 3 = 0x0b00000000ffffff := by decide

/-! ## Commands -/

/-- TV-CMD: NOP in ABSORB and in ERROR. -/
theorem test_nop : statusAfter .nop absorbEngine = some 0x1 ∧ statusAfter .nop errorEngine = some 0x20204 := by decide

/-- TV-I: INIT with the KAT key. -/
theorem test_init : engineAfter .init idleEngine = some absorbEngine := by decide

/-- TV-CMD: INIT with c = 0, in ERROR. -/
theorem test_init_zeroRounds : statusAfter .init { errorEngine with cfgC := 0 } = some 0x10404 := by decide

/-- TV-KAT: ABSORB. -/
theorem test_absorb :
    engineAfter .absorb { absorbEngine with msg := 0x0706050403020100 } =
      some { absorbEngine with msg := 0x0706050403020100, v := katAbsorbed, len := 8 } := by decide

/-- TV-CMD: ABSORB in IDLE, TAILED, DONE and ERROR. -/
theorem test_absorb_sequence :
    statusAfter .absorb idleEngine = some 0x20204 ∧ statusAfter .absorb tailedEngine = some 0x20204 ∧
    engineAfter .absorb doneEngine = some errorEngine ∧ engineAfter .absorb errorEngine = some errorEngine := by decide

/-- TV-KAT: TAIL 7, with junk in byte 7 of MSG. -/
theorem test_tail :
    engineAfter (.tail 7) { absorbEngine with msg := 0xff0e0d0c0b0a0908, v := katAbsorbed, len := 8 } =
      some { absorbEngine with msg := 0xff0e0d0c0b0a0908, v := katTailed, len := 15, phase := .tailed } := by decide

/-- TV-CMD: TAIL 7 in IDLE, and in ERROR. -/
theorem test_tail_sequence :
    statusAfter (.tail 7) idleEngine = some 0x30204 ∧ statusAfter (.tail 7) errorEngine = some 0x20204 := by decide

/-- TV-KAT: FINALIZE. -/
theorem test_finalize :
    engineAfter .finalize { tailedEngine with v := katTailed, len := 15 } =
      some { tailedEngine with v := katFinal, len := 15, result := 0xa129ca6149be45e5, phase := .done } := by decide

/-- TV-CMD: FINALIZE in the other phases. -/
theorem test_finalize_missing_or_sequence :
    statusAfter .finalize idleEngine = some 0x40304 ∧ statusAfter .finalize absorbEngine = some 0x40304 ∧
    statusAfter .finalize doneEngine = some 0x40204 ∧ statusAfter .finalize errorEngine = some 0x20204 := by decide

/-- TV-CMD, R108: ABORT from ERROR keeps the key and the counts. -/
theorem test_abort : engineAfter .abort errorEngine = some idleEngine := by decide

/-! ## Register reads -/

/-- TV-REG. -/
theorem test_rdId : responseOf .rdId Engine.reset = some (.data 0x0000000153495048) := by decide

/-- TV-REG. -/
theorem test_rdCmd : responseOf .rdCmd errorEngine = some (.data 0) := by decide

/-- TV-CMD: STATUS in ERROR. -/
theorem test_rdStatus : responseOf .rdStatus errorEngine = some (.data 0x20204) := by decide

/-- TV-REG. -/
theorem test_rdCfg : responseOf .rdCfg Engine.reset = some (.data 0x0000000000040002) := by decide

/-- TV-REG. -/
theorem test_rdKey0 : responseOf .rdKey0 idleEngine = some (.data 0) := by decide

/-- TV-REG. -/
theorem test_rdKey1 : responseOf .rdKey1 idleEngine = some (.data 0) := by decide

/-- P5, step 18. -/
theorem test_rdMsg : responseOf .rdMsg { errorEngine with msg := 1 } = some (.data 1) := by decide

/-- P2, step 11. -/
theorem test_rdLen : responseOf .rdLen { doneEngine with len := 15 } = some (.data 0xf) := by decide

/-- P1, step 8. -/
theorem test_rdResult : responseOf .rdResult doneEngine = some (.data 0x726fdb47dd0e0e31) := by decide

/-- TV-C. -/
theorem test_rdConst :
    responseOf .rdConst0 idleEngine = some (.data 0x736f6d6570736575) ∧
    responseOf .rdConst1 idleEngine = some (.data 0x646f72616e646f6d) ∧
    responseOf .rdConst2 idleEngine = some (.data 0x6c7967656e657261) ∧
    responseOf .rdConst3 idleEngine = some (.data 0x7465646279746573) := by decide

/-! ## Register writes and the bus -/

/-- TV-CMD: illegal words, RSV with OPC 0 among them. -/
theorem test_wrCmd_illegal :
    statusAfter (.wrCmd 0x6) idleEngine = some 0x60104 ∧ statusAfter (.wrCmd 0x102) absorbEngine = some 0x20104 ∧
    statusAfter (.wrCmd 0x800) doneEngine = some 0x104 ∧ engineAfter (.wrCmd 0x6) errorEngine = some errorEngine := by
  decide

/-- R94: WR CMD performs the command. -/
theorem test_wrCmd : engineAfter (.wrCmd 0x1) idleEngine = some absorbEngine := by decide

/-- TV-REG: bits 63:32 are ignored; and 0x12345. -/
theorem test_wrCfg :
    engineAfter (.wrCfg 0xffffffff00080004) idleEngine = some { idleEngine with cfgC := 4, cfgD := 8 } ∧
    engineAfter (.wrCfg 0x12345) idleEngine = some { idleEngine with cfgC := 0x2345, cfgD := 1 } := by decide

/-- TV-CMD: WR CFG in ABSORB and TAILED. -/
theorem test_wrCfg_locked :
    statusAfter (.wrCfg 0x40002) absorbEngine = some 0x180504 ∧
    statusAfter (.wrCfg 0x40002) tailedEngine = some 0x180504 := by decide

/-- TV-CMD: WR KEY0 in DONE stores, in ABSORB is LOCKED. -/
theorem test_wrKey0 :
    engineAfter (.wrKey0 0x40002) doneEngine = some { doneEngine with key0 := 0x40002 } ∧
    statusAfter (.wrKey0 0x40002) absorbEngine = some 0x200504 := by decide

/-- TV-CMD: WR KEY1 in ERROR stores, in TAILED is LOCKED and keeps KEY1 (P4, step 12). -/
theorem test_wrKey1 :
    engineAfter (.wrKey1 0x40002) errorEngine = some { errorEngine with key1 := 0x40002 } ∧
    engineAfter (.wrKey1 0) tailedEngine =
      some { tailedEngine with phase := .error, err := .locked, errInfo := 0x28 } := by decide

/-- TV-REG: WR MSG in ABSORB. -/
theorem test_wrMsg : engineAfter (.wrMsg 1) absorbEngine = some { absorbEngine with msg := 1 } := by decide

/-- TV-REG, R99: writes that have no effect. -/
theorem test_wr_ignored :
    engineAfter (.wrLen 0) { doneEngine with len := 15 } = some { doneEngine with len := 15 } ∧
    engineAfter (.wrStatus 0) errorEngine = some errorEngine ∧
    engineAfter (.wrResult 5) doneEngine = some doneEngine ∧
    engineAfter (.wrId 5) doneEngine = some doneEngine ∧
    engineAfter (.wrConst0 5) doneEngine = some doneEngine ∧
    engineAfter (.wrConst1 5) doneEngine = some doneEngine ∧
    engineAfter (.wrConst2 5) doneEngine = some doneEngine ∧
    engineAfter (.wrConst3 5) doneEngine = some doneEngine := by decide

/-- TV-BUS: each access returns the bus error and changes no state; INIT is not performed. -/
theorem test_busErrors :
    stepOn idleEngine (.rd 8 0x68) = some ⟨idleEngine, [], some (.busError 0x68)⟩ ∧
    stepOn idleEngine (.rd 8 0x70) = some ⟨idleEngine, [], some (.busError 0x70)⟩ ∧
    stepOn idleEngine (.rd 8 0x78) = some ⟨idleEngine, [], some (.busError 0x78)⟩ ∧
    stepOn idleEngine (.wr 8 0x68 1) = some ⟨idleEngine, [], some (.busError 0x68)⟩ ∧
    stepOn idleEngine (.rd 8 0x34) = some ⟨idleEngine, [], some (.busError 0x34)⟩ ∧
    stepOn idleEngine (.wr 4 0x30 5) = some ⟨idleEngine, [], some (.busError 0x30)⟩ ∧
    stepOn idleEngine (.rd 4 0x48) = some ⟨idleEngine, [], some (.busError 0x48)⟩ ∧
    stepOn idleEngine (.wr 1 0x08 1) = some ⟨idleEngine, [], some (.busError 0x08)⟩ := by decide

/-- R83: an accepted read. -/
theorem test_step_read : stepOn errorEngine (.rd 8 0x10) = some ⟨errorEngine, [], some (.data 0x20204)⟩ := by decide

/-! ## Witnesses: states and operands that meet the hypotheses of each statement -/

/-- A state whose next event is this access. -/
def before (e : Engine) (a : Access) : State := stateOf e [.access a]

/-- The state a step answers, or the state itself where it answers none. -/
def stepOf (s : State) : State :=
  match step s with
  | .next t => t
  | _ => s

/-- The state an instruction answers, or the state itself where it answers none. -/
def execOf (i : Instr) (s : State) : State :=
  match exec i s with
  | .next t => t
  | _ => s

/-- A state whose next event is an access has no RESET next. -/
theorem not_reset_before (e : Engine) (a : Access) : ¬NextIsReset (before e a) := by
  rintro ⟨_, h⟩; cases h

theorem witness_ReadsHaveNoSideEffects : (0x00 : Nat) < 128 ∧ (0x7f : Nat) < 128 := by decide

/-- An illegal word outside ERROR and in ERROR, and both widths. -/
theorem witness_WriteCmdPerformsTheCommand :
    (∀ c : Command, (0x6 : Word) ≠ cmdWord c) ∧ (stateOf idleEngine).engine.phase ≠ .error ∧
    (stateOf errorEngine).engine.phase = .error ∧ (8 : Nat) = 8 ∧ (7 : Nat) ≠ 8 := by
  refine ⟨fun c => ?_, by decide, rfl, rfl, by decide⟩
  cases c with
  | tail n => revert n; decide
  | nop | init | absorb | finalize | abort => decide

/-- Each guarded write unlocked and locked. -/
theorem witness_guarded_writes :
    ¬(idleEngine.phase = .absorb ∨ idleEngine.phase = .tailed) ∧
    (absorbEngine.phase = .absorb ∨ absorbEngine.phase = .tailed) ∧
    (tailedEngine.phase = .absorb ∨ tailedEngine.phase = .tailed) := by decide

/-- Both cases at their boundary: counts of 1, and c or d 0. -/
theorem witness_InitStartsAComputationOrRaisesZeroRounds :
    ({ idleEngine with cfgC := 1, cfgD := 1 } : Engine).cfgC ≠ 0 ∧
    ({ idleEngine with cfgC := 1, cfgD := 1 } : Engine).cfgD ≠ 0 ∧
    (({ idleEngine with cfgC := 0 } : Engine).cfgC = 0 ∨ ({ idleEngine with cfgC := 0 } : Engine).cfgD = 0) ∧
    (({ idleEngine with cfgD := 0 } : Engine).cfgC = 0 ∨ ({ idleEngine with cfgD := 0 } : Engine).cfgD = 0) := by decide

/-- Both instructions that can return to IDLE. -/
theorem witness_AbortAloneReturnsToIdle :
    exec .abort (stateOf errorEngine) = .next (execOf .abort (stateOf errorEngine)) ∧
    exec (.wrCmd 0x5) (stateOf doneEngine) = .next (execOf (.wrCmd 0x5) (stateOf doneEngine)) ∧
    errorEngine.phase ≠ .idle ∧ doneEngine.phase ≠ .idle ∧
    (execOf .abort (stateOf errorEngine)).engine.phase = .idle ∧
    (execOf (.wrCmd 0x5) (stateOf doneEngine)).engine.phase = .idle := by
  refine ⟨rfl, rfl, ?_⟩; decide

/-- n = 7, whose last kept byte is 6, and n = 0, whose first masked byte is 0. -/
theorem witness_TailBlockKeepsExactlyTheTrailingBytes :
    (6 < (7 : BitVec 3).toNat) ∧ ((0 : BitVec 3).toNat ≤ 0 ∧ 0 < 7) ∧ ((6 : BitVec 3).toNat ≤ 6 ∧ 6 < 7) := by decide

theorem witness_RaiseRecordsOnlyTheFirstError : idleEngine.phase ≠ .error ∧ errorEngine.phase = .error := by decide

/-- An error from DONE, and INIT's ZERO_ROUNDS in ERROR. -/
theorem witness_ErrorsArePrecise :
    exec .absorb (stateOf doneEngine) = .next (execOf .absorb (stateOf doneEngine)) ∧
    RaisesError (stateOf doneEngine) (execOf .absorb (stateOf doneEngine)) ∧
    exec .init (stateOf { errorEngine with cfgC := 0 }) = .next (execOf .init (stateOf { errorEngine with cfgC := 0 })) ∧
    RaisesError (stateOf { errorEngine with cfgC := 0 }) (execOf .init (stateOf { errorEngine with cfgC := 0 })) := by
  unfold RaisesError; refine ⟨rfl, ?_, rfl, ?_⟩ <;> decide

/-- One access for each row of the cause table, each raising its error. -/
def erringAccesses : List (Engine × Access) :=
  [(idleEngine, .wr 8 0x08 0x6), (idleEngine, .wr 8 0x08 0x2), (tailedEngine, .wr 8 0x08 0x703),
   (doneEngine, .wr 8 0x08 0x4), (absorbEngine, .wr 8 0x08 0x4), ({ errorEngine with cfgD := 0 }, .wr 8 0x08 0x1),
   (absorbEngine, .wr 8 0x18 0), (tailedEngine, .wr 8 0x20 0), (absorbEngine, .wr 8 0x28 0)]

theorem witness_EveryErrorHasItsCauseAndInfo :
    ∀ x ∈ erringAccesses,
      step (before x.1 x.2) = .next (stepOf (before x.1 x.2)) ∧ RaisesError (before x.1 x.2) (stepOf (before x.1 x.2)) := by
  unfold RaisesError
  simp only [erringAccesses, List.forall_mem_cons, List.not_mem_nil, false_implies, implies_true, and_true]
  refine ⟨?_, ?_, ?_, ?_, ?_, ?_, ?_, ?_, ?_⟩ <;> exact ⟨rfl, by decide⟩

theorem witness_ErrorPhaseIgnoresAllButRecovery :
    (stateOf errorEngine).engine.phase = .error ∧ wordWf 0x6 = false ∧ wordWf 0x103 = true ∧ wordWf 0x104 = false := by
  decide

/-- The three ways out of ERROR. -/
theorem witness_OnlyInitAbortAndResetLeaveError :
    (∀ a ∈ [Access.wr 8 0x08 0x1, .wr 8 0x08 0x5],
      step (before errorEngine a) = .next (stepOf (before errorEngine a)) ∧
      (before errorEngine a).engine.phase = .error ∧ (stepOf (before errorEngine a)).engine.phase ≠ .error) ∧
    step (stateOf errorEngine [.reset none]) = .next (stateOf Engine.reset) ∧
    (stateOf Engine.reset).engine.phase ≠ .error := by
  refine ⟨?_, rfl, by decide⟩
  simp only [List.forall_mem_cons, List.not_mem_nil, false_implies, implies_true, and_true]
  constructor <;> exact ⟨rfl, by decide⟩

/-- The first and the last offset of the block. -/
theorem witness_PhaseTransitionsFollowTheTable :
    (Access.wr 8 0x08 0x1).off < 128 ∧ (Access.rd 8 0x7f).off < 128 ∧
    (before idleEngine (.wr 8 0x08 0x1)).inbox = .access (.wr 8 0x08 0x1) :: [] := by decide

/-- Each case alone, and an access in none of them. -/
theorem witness_BusErrorsAreExactlyTheThreeCases :
    (Access.wr 4 0x30 5).width ≠ 8 ∧ (Access.rd 8 0x7f).off % 8 ≠ 0 ∧ (Access.rd 8 0x68).off = 0x68 ∧
    (Access.rd 8 0x70).off = 0x70 ∧ (Access.rd 8 0x78).off = 0x78 ∧ (Access.rd 8 0x7f).off < 128 ∧
    ¬((Access.rd 8 0x60).width ≠ 8 ∨ (Access.rd 8 0x60).off % 8 ≠ 0 ∨ (Access.rd 8 0x60).off = 0x68 ∨
      (Access.rd 8 0x60).off = 0x70 ∨ (Access.rd 8 0x60).off = 0x78) := by decide

theorem witness_StepRunsTheDecodedInstruction :
    (before idleEngine (.rd 8 0x60)).inbox = .access (.rd 8 0x60) :: [] ∧ decode (.bus (.rd 8 0x60)) = .ok .rdConst3 ∧
    (before absorbEngine (.wr 8 0x08 0x703)).inbox = .access (.wr 8 0x08 0x703) :: [] ∧
    decode (.cmd 0x703) = .ok (.tail 7) := by decide

/-- The first offset outside the block, an empty inbox, and a safe state. -/
theorem witness_OnlyAccessesOutsideTheBlockStop :
    (before idleEngine (.rd 8 0x80)).inbox = .access (.rd 8 0x80) :: [] ∧ 128 ≤ (Access.rd 8 0x80).off ∧
    (stateOf idleEngine).inbox = [] ∧ Safe (before idleEngine (.rd 8 0x7f)) := by
  refine ⟨rfl, by decide, rfl, ?_⟩; unfold Safe; decide

/-- RESET alone, and with an access that coincides. -/
theorem witness_ResetEventGivesTheResetValues :
    (stateOf errorEngine [.reset none]).inbox = .reset none :: [] ∧
    (stateOf errorEngine [.reset (some (.wr 8 0x08 0x1))]).inbox = .reset (some (.wr 8 0x08 0x1)) :: [] := by decide

theorem witness_AbortIsResetKeepingKeyCfgMsg :
    exec .abort (stateOf errorEngine) = .next (execOf .abort (stateOf errorEngine)) := rfl

/-- A write the lock refuses, in each locked phase. -/
theorem witness_KeyAndCountsAreFixedWhileLocked :
    step (before absorbEngine (.wr 8 0x20 0)) = .next (stepOf (before absorbEngine (.wr 8 0x20 0))) ∧
    step (before tailedEngine (.wr 8 0x18 0)) = .next (stepOf (before tailedEngine (.wr 8 0x18 0))) ∧
    (absorbEngine.phase = .absorb ∨ absorbEngine.phase = .tailed) ∧
    (tailedEngine.phase = .absorb ∨ tailedEngine.phase = .tailed) ∧
    ¬NextIsReset (before absorbEngine (.wr 8 0x20 0)) ∧ ¬NextIsReset (before tailedEngine (.wr 8 0x18 0)) :=
  ⟨rfl, rfl, by decide, by decide, not_reset_before _ _, not_reset_before _ _⟩

/-- A write that changes each of the four registers. -/
theorem witness_HostRegistersChangeOnlyByTheirOwnWrite :
    (∀ off ∈ [0x18, 0x20, 0x28, 0x30],
      step (before idleEngine (.wr 8 off 5)) = .next (stepOf (before idleEngine (.wr 8 off 5))) ∧
      (stepOf (before idleEngine (.wr 8 off 5))).engine ≠ idleEngine ∧
      ¬NextIsReset (before idleEngine (.wr 8 off 5))) := by
  simp only [List.forall_mem_cons, List.not_mem_nil, false_implies, implies_true, and_true]
  refine ⟨?_, ?_, ?_, ?_⟩ <;> exact ⟨rfl, by decide, not_reset_before _ _⟩

/-- INIT, ABSORB, TAIL, FINALIZE and ABORT, each where it has its effect. -/
theorem witness_VLenResultChangeOnlyByTheirCommands :
    ∀ x ∈ [(idleEngine, (0x1 : Word)), (absorbEngine, 0x2), (absorbEngine, 0x703), (tailedEngine, 0x4), (doneEngine, 0x5)],
      step (before x.1 (.wr 8 0x08 x.2)) = .next (stepOf (before x.1 (.wr 8 0x08 x.2))) ∧
      (stepOf (before x.1 (.wr 8 0x08 x.2))).engine.v ≠ x.1.v ∧ ¬NextIsReset (before x.1 (.wr 8 0x08 x.2)) := by
  simp only [List.forall_mem_cons, List.not_mem_nil, false_implies, implies_true, and_true]
  refine ⟨?_, ?_, ?_, ?_, ?_⟩ <;> exact ⟨rfl, by decide, not_reset_before _ _⟩

/-- Two keys, and a read of KEY0. -/
theorem witness_KeyIsReadOnlyByInit :
    SameButKeys (before idleEngine (.rd 8 0x20)) (before { idleEngine with key0 := 0, key1 := 1 } (.rd 8 0x20)) ∧
    ¬NextIs (before idleEngine (.rd 8 0x20)) (.wr 8 0x08 0x1) := by
  refine ⟨rfl, ?_⟩; unfold NextIs; decide

/-- Two states V, and ABSORB. -/
theorem witness_VIsSeenOnlyThroughFinalize :
    SameButV (before absorbEngine (.wr 8 0x08 0x2)) (before { absorbEngine with v := katAbsorbed } (.wr 8 0x08 0x2)) ∧
    ¬NextIs (before absorbEngine (.wr 8 0x08 0x2)) (.wr 8 0x08 0x4) := by
  refine ⟨rfl, ?_⟩; unfold NextIs; decide

/-- One instruction of each of the three groups, and the phases of the other clauses. -/
theorem witness_IdempotentAccessesAndTheOnesThatAreNot :
    exec .rdConst3 (stateOf idleEngine) = .next (execOf .rdConst3 (stateOf idleEngine)) ∧
    (∃ v, Instr.wrMsg 5 = .wrMsg v) ∧ exec (.wrMsg 5) (stateOf absorbEngine) = .next (execOf (.wrMsg 5) (stateOf absorbEngine)) ∧
    idleEngine.locked = false ∧ (∃ v, Instr.wrKey1 5 = .wrCfg v ∨ Instr.wrKey1 5 = .wrKey0 v ∨ Instr.wrKey1 5 = .wrKey1 v) ∧
    exec (.wrKey1 5) (stateOf idleEngine) = .next (execOf (.wrKey1 5) (stateOf idleEngine)) ∧
    absorbEngine.phase = .absorb ∧ tailedEngine.phase = .tailed :=
  ⟨rfl, ⟨5, rfl⟩, rfl, by decide, ⟨5, .inr (.inr rfl)⟩, rfl, rfl, rfl⟩

/-- A word of each side of the decoder. -/
theorem witness_DecoderMapsEveryWordToOneCommand :
    decodeCmd 0x703 = .ok (.tail 7) ∧ decodeCmd 0x800 = .error 0x00 ∧ legalWord 0x800 = false := by decide

/-- An encoding of each format that decodes. -/
theorem witness_EncodeOfDecodeIsTheEncoding :
    decode (.cmd 0x703) = .ok (.tail 7) ∧ decode (.bus (.wr 8 0x60 5)) = .ok (.wrConst3 5) := by decide

/-- The least and the largest amount, the first and the last bit. -/
theorem witness_RotlMovesEachBit : (0 < 1 ∧ 1 < 64) ∧ (0 < 63 ∧ 63 < 64) ∧ 0 < 64 ∧ 63 < 64 := by decide

/-- Fifteen bytes: a full block, seven trailing bytes; eight bytes: no trailing byte. -/
theorem witness_EncodeMessagePlacesEveryByte :
    (0 < (counting 15).length / 8 ∧ 7 < 8) ∧ 6 < (counting 15).length % 8 ∧
    ((counting 8).length % 8 ≤ 0 ∧ 0 < 7) ∧ ((counting 14).length % 8 ≤ 6 ∧ 6 < 7) := by decide

theorem witness_RegisterBytesAreLittleEndianLanes : 0 < 8 ∧ 7 < 8 ∧ (counting 8).length = 8 := by decide

theorem witness_MissingInputGivesNoValue :
    (idleEngine.phase = .idle ∨ idleEngine.phase = .absorb) ∧
    (absorbEngine.phase = .idle ∨ absorbEngine.phase = .absorb) := by decide

/-- The bytes 00 … 0e, with junk in the top byte of the last word, from ERROR; and the empty message. -/
theorem witness_ComputeProtocolEqualsSipHash :
    errorEngine.cfgC ≠ 0 ∧ errorEngine.cfgD ≠ 0 ∧
    (∀ j : Nat, j < (counting 15).length % 8 →
      (counting 15)[8 * ((counting 15).length / 8) + j]? = some (lane 0xff0e0d0c0b0a0908 j)) ∧
    (∀ j : Nat, j < ([] : List Byte).length % 8 → ([] : List Byte)[8 * (([] : List Byte).length / 8) + j]? = some (lane 0 j)) ∧
    (stateOf errorEngine (HostProgram.events (HostProgram.computeCore (counting 15) 0xff0e0d0c0b0a0908))).inbox =
      HostProgram.events (HostProgram.computeCore (counting 15) 0xff0e0d0c0b0a0908) ++ [] :=
  ⟨by decide, by decide, by decide, by decide, (List.append_nil _).symm⟩

/-- Counts of 1, from reset and from DONE. -/
theorem witness_ComputeProgramReturnsTheHash :
    (1 : BitVec 16) ≠ 0 ∧ Engine.reset.locked = false ∧ doneEngine.locked = false ∧
    (stateOf Engine.reset (HostProgram.events
        (HostProgram.new katKey0 katKey1 ((1 : BitVec 16).setWidth 64) ((1 : BitVec 16).setWidth 64) ++
          HostProgram.compute (counting 15)))).inbox =
      HostProgram.events
        (HostProgram.new katKey0 katKey1 ((1 : BitVec 16).setWidth 64) ((1 : BitVec 16).setWidth 64) ++
          HostProgram.compute (counting 15)) ++ [] :=
  ⟨by decide, by decide, by decide, (List.append_nil _).symm⟩

/-- R36 in ABSORB with 8 bytes taken, and a step from there. -/
theorem witness_StepKeepsTheInvariants :
    Invariants (before { absorbEngine with len := 8 } (.wr 8 0x08 0x703)) ∧
    step (before { absorbEngine with len := 8 } (.wr 8 0x08 0x703)) =
      .next (stepOf (before { absorbEngine with len := 8 } (.wr 8 0x08 0x703))) := by
  refine ⟨?_, rfl⟩
  unfold Invariants
  constructor <;> decide

/-- A run of two events from reset: the key written, then RESET. -/
theorem witness_ReachableStatesHaveTheInvariants :
    Sys2Proof.core.run 1 { State.reset with inbox := [.access (.wr 8 0x20 5), .reset none] } =
      .next ⟨{ Engine.reset with key0 := 5 }, [.reset none], some .ok⟩ := by
  rw [run_succ_of_step (t := ⟨{ Engine.reset with key0 := 5 }, [.reset none], some .ok⟩) rfl, run_zero]

end Sys2Proof.Tests
end

/-! Proofs about the architectural state (10_state.md): the shared facts, the invariants of R36, who writes which state,
what the key and V are hidden from, and STATUS. -/

namespace Sys2Proof

/-! ### A command word read back from its fields -/

/-- R53: the three fields make up the whole word. -/
theorem toNat_eq_of_fields (w : Word) :
    w.toNat = (opcField w).toNat + 256 * (nbField w).toNat + 2048 * (rsvField w).toNat := by
  simp only [opcField, nbField, rsvField, BitVec.extractLsb'_toNat, Nat.shiftRight_eq_div_pow]
  omega

/-- R55 as a proposition about the three fields. -/
theorem legalWord_iff (w : Word) :
    legalWord w = true ↔ opcField w ≤ 5 ∧ rsvField w = 0 ∧ (opcField w = 3 ∨ nbField w = 0) := by
  simp [legalWord, and_assoc]

/-- R55: a legal word is its OPC, with NB from bit 8 on. -/
theorem toNat_of_legalWord {w : Word} (h : legalWord w = true) :
    w.toNat = (opcField w).toNat + 256 * (nbField w).toNat := by
  obtain ⟨-, hrsv, -⟩ := (legalWord_iff w).1 h
  simpa [hrsv] using toNat_eq_of_fields w

/-- R54, R56: TAIL's word is OPC 3, with NB from bit 8 on. -/
theorem cmdWord_tail_toNat (n : BitVec 3) : (cmdWord (.tail n)).toNat = 3 + 256 * n.toNat := by
  revert n; decide

/-- R56: every word of TAIL is in the table's list. -/
theorem cmdWord_tail_mem_tailWords (n : BitVec 3) : cmdWord (.tail n) ∈ Safety.tailWords := by
  revert n; decide

/-- R64: a word decodes to a command only when it is that command's word. -/
theorem eq_cmdWord_of_decodeCmd {w : Word} {c : Command} (h : decodeCmd w = .ok c) : w = cmdWord c := by
  apply BitVec.eq_of_toNat_eq
  unfold decodeCmd at h
  split at h
  · rename_i hlegal
    obtain ⟨hle, -, hnb⟩ := (legalWord_iff w).1 hlegal
    have hshort {k : Byte} (hk : opcField w = k) (hne : k ≠ 3) : w.toNat = k.toNat := by
      rw [toNat_of_legalWord hlegal, hnb.resolve_left (hk ▸ hne), hk]; rfl
    split_ifs at h with h0 h1 h2 h3 h4 <;> injection h with h <;> subst h
    · exact hshort (k := 0) h0 (by decide)
    · exact hshort (k := 1) h1 (by decide)
    · exact hshort (k := 2) h2 (by decide)
    · rw [toNat_of_legalWord hlegal, cmdWord_tail_toNat, h3]; rfl
    · exact hshort (k := 4) h4 (by decide)
    · exact hshort (k := 5) (by bv_omega) (by decide)
  · cases h

end Sys2Proof

namespace Sys2Proof.Machine

open Sys2Proof.Safety

/-! ### What a step and a write can do to the engine -/

/-- What an 8-byte write of `v` to register `r` can make of the engine `e` (R93–R99): `WriteEffect e r v f` for the
engine `f` it leaves. -/
inductive WriteEffect (e : Engine) : Reg → Word → Engine → Prop
  | command (w : Word) : WriteEffect e .cmd w (e.execCmd w)
  | ignored (r : Reg) (v : Word) : WriteEffect e r v e
  | msg (v : Word) : WriteEffect e .msg v { e with msg := v }
  | cfg (v : Word) (h : e.locked = false) : WriteEffect e .cfg v { e with cfgC := cfgCOf v, cfgD := cfgDOf v }
  | key0 (v : Word) (h : e.locked = false) : WriteEffect e .key0 v { e with key0 := v }
  | key1 (v : Word) (h : e.locked = false) : WriteEffect e .key1 v { e with key1 := v }
  | lockedOut (r : Reg) (v : Word) (off : Byte) (h : e.locked = true) :
      WriteEffect e r v { e with err := .locked, errInfo := off, phase := .error }

/-- R95–R97: a guarded write is one of the effects when its store is one in an unlocked engine. -/
theorem WriteEffect.guardedWrite {e : Engine} {r : Reg} {v : Word} (off : Byte) {store : Engine → Engine}
    (hstore : e.locked = false → WriteEffect e r v (store e)) : WriteEffect e r v (e.guardedWrite off store) := by
  rcases e.guardedWrite_cases off store with ⟨hl, he⟩ | ⟨hl, he⟩ <;> rw [he]
  · exact hstore hl
  · exact .lockedOut r v off hl

/-- The write instruction of a register has one of the effects. -/
theorem Engine.effect_wrInstr (e : Engine) (r : Reg) (v : Word) : WriteEffect e r v (e.effect (wrInstr r v)) := by
  cases r with
  | cmd => exact .command v
  | msg => exact .msg v
  | cfg =>
    exact WriteEffect.guardedWrite 0x18 (store := fun e => { e with cfgC := cfgCOf v, cfgD := cfgDOf v }) (.cfg v)
  | key0 => exact WriteEffect.guardedWrite 0x20 (store := fun e => { e with key0 := v }) (.key0 v)
  | key1 => exact WriteEffect.guardedWrite 0x28 (store := fun e => { e with key1 := v }) (.key1 v)
  | id | status | len | result | const0 | const1 | const2 | const3 => exact .ignored _ v

/-- Everything a step can do to the engine: nothing, RESET, or the effect of an 8-byte write to one register. -/
theorem step_engine_cases {s t : State} (h : step s = .next t) :
    t.engine = s.engine ∨ (NextIsReset s ∧ t.engine = Engine.reset) ∨
      ∃ r v, NextIs s (Reg.write r v) ∧ WriteEffect s.engine r v t.engine := by
  rcases step_cases h with ⟨-, rfl⟩ | ⟨c, rest, hi, rfl⟩ | ⟨a, i, rest, hi, hd, rfl⟩ | ⟨a, off, rest, -, -, rfl⟩
  · exact .inl rfl
  · exact .inr (.inl ⟨⟨c, by rw [hi]; rfl⟩, rfl⟩)
  · obtain ⟨r, ⟨-, rfl⟩ | ⟨v, rfl, rfl⟩⟩ := decodeBus_ok hd
    · exact .inl (Engine.effect_rdInstr r _)
    · exact .inr (.inr ⟨r, v, by rw [NextIs, hi]; rfl, Engine.effect_wrInstr _ r v⟩)
  · exact .inl rfl

/-- The same where the next event is not RESET. -/
theorem step_engine_cases_of_not_reset {s t : State} (h : step s = .next t) (hr : ¬NextIsReset s) :
    t.engine = s.engine ∨ ∃ r v, NextIs s (Reg.write r v) ∧ WriteEffect s.engine r v t.engine :=
  (step_engine_cases h).imp_right fun h => h.resolve_left fun hreset => hr hreset.1

/-- R102, R115: an illegal word raises ILLEGAL_CMD, which in ERROR changes nothing. -/
theorem Engine.execCmd_of_error {w : Word} {opc : Byte} (h : decodeCmd w = .error opc) (e : Engine) :
    e.execCmd w = e.raise .illegalCmd opc := by
  simp only [Engine.execCmd, h, Engine.raise]
  split <;> rfl

/-- R102: a legal word is run as its command. -/
theorem Engine.execCmd_of_ok {w : Word} {c : Command} (h : decodeCmd w = .ok c) (e : Engine) :
    e.execCmd w = e.runCommand c := by
  simp only [Engine.execCmd, h]

/-! ### The invariants of R36, operation by operation -/

/-- An engine in ERROR with an error code has the invariants: the others speak of other phases. -/
theorem engineInv_of_error {e : Engine} (hp : e.phase = .error) (he : e.err ≠ .none) : EngineInv e := by
  constructor <;> simp [hp, he, Phase.code]

/-- A cleared engine in IDLE has the invariants. -/
theorem engineInv_of_idle {e : Engine} (hp : e.phase = .idle) (he : e.err = .none) (hinfo : e.errInfo = 0)
    (hv : e.v = ⟨0, 0, 0, 0⟩) (hlen : e.len = 0) (hres : e.result = 0) : EngineInv e := by
  constructor <;> simp [hp, he, hinfo, hv, hlen, hres, Phase.code]

theorem Engine.reset_inv : EngineInv Engine.reset := engineInv_of_idle rfl rfl rfl rfl rfl rfl

theorem Engine.abort_inv (e : Engine) : EngineInv e.abort := engineInv_of_idle rfl rfl rfl rfl rfl rfl

theorem Engine.init_inv (e : Engine) : EngineInv e.init := by
  rcases e.init_cases with ⟨-, he⟩ | ⟨hc, hd, he⟩ <;> rw [he]
  · exact engineInv_of_error rfl (by simp)
  · have hrounds : 1 ≤ e.cfgC.toNat ∧ 1 ≤ e.cfgD.toNat := by bv_omega
    constructor <;> simp [Phase.code, hrounds]

theorem Engine.raise_inv {e : Engine} (h : EngineInv e) {code : Err} (hcode : code ≠ .none) (info : Byte) :
    EngineInv (e.raise code info) := by
  by_cases hp : e.phase = .error
  · rwa [e.raise_eq_of_error code info hp]
  · rw [e.raise_eq_of_ne code info hp]; exact engineInv_of_error rfl hcode

/-- R105: LEN grows by whole blocks, so it stays a multiple of 8, also where it wraps. -/
theorem Engine.absorb_inv {e : Engine} (h : EngineInv e) : EngineInv e.absorb := by
  rcases e.absorb_cases with ⟨hp, he⟩ | ⟨-, he⟩ | ⟨-, -, he⟩ <;> rw [he]
  · have hlen := h.absorb_len_multiple hp
    exact { h with
      absorb_len_multiple := fun _ => by bv_omega
      idle_cleared := fun hi => by simp [hp] at hi }
  · exact h
  · exact engineInv_of_error rfl (by simp)

/-- R106: TAILED keeps ABSORB's positive counts and its RESULT of 0. -/
theorem Engine.tail_inv {e : Engine} (h : EngineInv e) (n : BitVec 3) : EngineInv (e.tail n) := by
  rcases e.tail_cases n with ⟨hp, he⟩ | ⟨-, he⟩ | ⟨-, -, he⟩ <;> rw [he]
  · have herr : e.err = .none := h.no_error_iff.2 (by simp [hp])
    have hrounds := h.open_rounds_positive (.inl hp)
    have hres := h.result_zero (.inr (.inl hp))
    constructor <;> simp [Phase.code, herr, h.no_error_info herr, hrounds, hres]
  · exact h
  · exact engineInv_of_error rfl (by simp)

/-- R107: of DONE the invariants ask only that no error is recorded. -/
theorem Engine.finalize_inv {e : Engine} (h : EngineInv e) : EngineInv e.finalize := by
  rcases e.finalize_cases with ⟨hp, he⟩ | ⟨-, he⟩ | ⟨-, he⟩ | ⟨-, he⟩ <;> rw [he]
  · have herr : e.err = .none := h.no_error_iff.2 (by simp [hp])
    constructor <;> simp [Phase.code, herr, h.no_error_info herr]
  · exact h
  · exact engineInv_of_error rfl (by simp)
  · exact engineInv_of_error rfl (by simp)

theorem Engine.runCommand_inv {e : Engine} (h : EngineInv e) (c : Command) : EngineInv (e.runCommand c) := by
  cases c with
  | nop => exact h
  | init => exact e.init_inv
  | absorb => exact Engine.absorb_inv h
  | tail n => exact Engine.tail_inv h n
  | finalize => exact Engine.finalize_inv h
  | abort => exact e.abort_inv

theorem Engine.execCmd_inv {e : Engine} (h : EngineInv e) (w : Word) : EngineInv (e.execCmd w) := by
  cases hd : decodeCmd w with
  | ok c => rw [Engine.execCmd_of_ok hd]; exact Engine.runCommand_inv h c
  | error opc => rw [Engine.execCmd_of_error hd]; exact Engine.raise_inv h (by simp) opc

/-- A write keeps the invariants. The lock is why CFG may take any counts: it is open only in phases in which the
invariants ask for none (R95, R100). -/
theorem WriteEffect.inv {e f : Engine} {r : Reg} {v : Word} (hw : WriteEffect e r v f) (h : EngineInv e) :
    EngineInv f := by
  cases hw with
  | command => exact Engine.execCmd_inv h v
  | ignored => exact h
  | cfg _ hl => exact { h with open_rounds_positive := fun hopen => by simp [(e.locked_iff).2 hopen] at hl }
  | msg | key0 | key1 => exact { h with }
  | lockedOut => exact engineInv_of_error rfl (by simp)

theorem invariants_of_step {s t : State} (hs : Invariants s) (h : step s = .next t) : Invariants t := by
  unfold Invariants
  rcases step_engine_cases h with he | ⟨-, he⟩ | ⟨r, v, -, hw⟩
  · rwa [he]
  · rw [he]; exact Engine.reset_inv
  · exact hw.inv hs

/-- What holds at the start of a run holds at its end. -/
theorem invariants_of_run {k : Nat} {s t : State} (hs : Invariants s) (h : Sys2Proof.core.run k s = .next t) :
    Invariants t := by
  induction k generalizing s with
  | zero => rw [run_zero] at h; injection h with h; exact h ▸ hs
  | succ k ih =>
    obtain ⟨u, hu, hrun⟩ := step_of_run_succ h
    exact ih (invariants_of_step hs hu) hrun

/-- Settles O57, write by write. -/
theorem stepKeepsTheInvariants : Obligations.StepKeepsTheInvariants :=
  fun _ _ hs h => invariants_of_step hs h

/-- Settles O58: reset is a cleared engine in IDLE. -/
theorem resetHasTheInvariants : Obligations.ResetHasTheInvariants := Engine.reset_inv

/-- Settles O59, by induction on the number of steps. -/
theorem reachableStatesHaveTheInvariants : Obligations.ReachableStatesHaveTheInvariants :=
  fun p _ _ h =>
    have hstart : Invariants { State.reset with inbox := p } := Engine.reset_inv
    invariants_of_run hstart h

/-- Settles O32: the values are the definition's, and the reads are computed from them. -/
theorem resetStateHasTheResetValues : Obligations.ResetStateHasTheResetValues :=
  ⟨rfl, rfl, rfl, rfl, rfl, rfl, rfl, rfl⟩

/-! ### Fields placed in a word -/

/-- A field placed at bit k is read back from there. -/
theorem extractLsb'_placed_same {n k : Nat} (x : BitVec n) (h : k + n ≤ 64) :
    (x.setWidth 64 <<< k).extractLsb' k n = x := by
  apply BitVec.eq_of_getLsbD_eq
  intro i hi
  simp [hi, show k + i < 64 by omega]

/-- A field placed at bit k leaves every bit range beside it 0. -/
theorem extractLsb'_placed_of_disjoint {n k j m : Nat} (x : BitVec n) (h : k + n ≤ j ∨ j + m ≤ k) :
    (x.setWidth 64 <<< k).extractLsb' j m = 0 := by
  apply BitVec.eq_of_getLsbD_eq
  intro i hi
  rcases h with h | h
  · simp [BitVec.getLsbD_of_ge x (j + i - k) (by omega)]
  · simp [show j + i < k by omega]

/-- R86 with PHASE, too, written as a placed field. -/
theorem Engine.statusWord_eq_placed (e : Engine) :
    e.statusWord =
      e.phase.code.setWidth 64 <<< 0 ||| e.err.code.setWidth 64 <<< 8 ||| e.errInfo.setWidth 64 <<< 16 := by
  simp [Engine.statusWord]

/-- Settles O4: each bit range meets one placed field, or none. -/
theorem statusWordFieldsAndCodes : Obligations.StatusWordFieldsAndCodes := by
  refine ⟨⟨rfl, rfl, rfl, rfl, rfl⟩, ⟨rfl, rfl, rfl, rfl, rfl, rfl⟩, fun e => ?_⟩
  simp only [Engine.readReg, Engine.statusWord_eq_placed, BitVec.extractLsb'_or]
  refine ⟨?_, ?_, ?_, ?_, ?_, ?_⟩ <;>
    simp [extractLsb'_placed_same, extractLsb'_placed_of_disjoint, -BitVec.shiftLeft_zero]

/-! ### Who writes which state -/

/-- R20, R22, R23: the registers that hold what the host wrote. -/
def Engine.hostRegs (e : Engine) : Word × Word × Word × BitVec 16 × BitVec 16 :=
  (e.msg, e.key0, e.key1, e.cfgC, e.cfgD)

/-- R18, R28, R29: the state the commands make. -/
def Engine.hashRegs (e : Engine) : V4 × Word × Word := (e.v, e.len, e.result)

/-- No command writes a host register. -/
theorem Engine.runCommand_hostRegs (c : Command) (e : Engine) : (e.runCommand c).hostRegs = e.hostRegs := by
  cases c with
  | nop | abort => rfl
  | init =>
    show e.init.hostRegs = _
    rcases e.init_cases with ⟨-, he⟩ | ⟨-, -, he⟩ <;> rw [he] <;> rfl
  | absorb =>
    show e.absorb.hostRegs = _
    rcases e.absorb_cases with ⟨-, he⟩ | ⟨-, he⟩ | ⟨-, -, he⟩ <;> rw [he] <;> rfl
  | tail n =>
    show (e.tail n).hostRegs = _
    rcases e.tail_cases n with ⟨-, he⟩ | ⟨-, he⟩ | ⟨-, -, he⟩ <;> rw [he] <;> rfl
  | finalize =>
    show e.finalize.hostRegs = _
    rcases e.finalize_cases with ⟨-, he⟩ | ⟨-, he⟩ | ⟨-, he⟩ | ⟨-, he⟩ <;> rw [he] <;> rfl

/-- No word written to CMD writes a host register. -/
theorem Engine.execCmd_hostRegs (w : Word) (e : Engine) : (e.execCmd w).hostRegs = e.hostRegs := by
  cases hd : decodeCmd w with
  | ok c => rw [Engine.execCmd_of_ok hd, Engine.runCommand_hostRegs]
  | error opc => simp [Engine.execCmd_of_error hd, Engine.hostRegs]

/-- Settles O35, by what a write can do. -/
theorem hostRegistersChangeOnlyByTheirOwnWrite : Obligations.HostRegistersChangeOnlyByTheirOwnWrite := by
  intro s t h hr
  rcases step_engine_cases_of_not_reset h hr with he | ⟨r, v, hn, hw⟩
  · rw [he]; exact ⟨.inl rfl, .inl rfl, .inl rfl, .inl ⟨rfl, rfl⟩⟩
  generalize t.engine = f at hw ⊢
  cases hw with
  | command =>
    have hsame := Engine.execCmd_hostRegs v s.engine
    simp only [Engine.hostRegs, Prod.mk.injEq] at hsame
    obtain ⟨hm, hk0, hk1, hc⟩ := hsame
    exact ⟨.inl hm, .inl hk0, .inl hk1, .inl hc⟩
  | msg => exact ⟨.inr hn, .inl rfl, .inl rfl, .inl ⟨rfl, rfl⟩⟩
  | key0 => exact ⟨.inl rfl, .inr hn, .inl rfl, .inl ⟨rfl, rfl⟩⟩
  | key1 => exact ⟨.inl rfl, .inl rfl, .inr hn, .inl ⟨rfl, rfl⟩⟩
  | cfg => exact ⟨.inl rfl, .inl rfl, .inl rfl, .inr ⟨v, hn⟩⟩
  | ignored | lockedOut => exact ⟨.inl rfl, .inl rfl, .inl rfl, .inl ⟨rfl, rfl⟩⟩

/-- A write leaves V, LEN and RESULT, or it is a command's word written to CMD. -/
theorem WriteEffect.hashRegs_or_command {e f : Engine} {r : Reg} {v : Word} (hw : WriteEffect e r v f) :
    f.hashRegs = e.hashRegs ∨ ∃ c, r = .cmd ∧ v = cmdWord c ∧ f = e.runCommand c := by
  cases hw with
  | command =>
    cases hd : decodeCmd v with
    | ok c => exact .inr ⟨c, rfl, eq_cmdWord_of_decodeCmd hd, Engine.execCmd_of_ok hd e⟩
    | error opc => exact .inl (by simp [Engine.execCmd_of_error hd, Engine.hashRegs])
  | ignored | msg | cfg | key0 | key1 | lockedOut => exact .inl rfl

/-- R28: what each command makes of LEN. -/
theorem Engine.runCommand_len_cases (c : Command) (e : Engine) :
    (e.runCommand c).len = e.len ∨ (c = .init ∧ (e.runCommand c).len = 0) ∨
      (c = .abort ∧ (e.runCommand c).len = 0) ∨ (c = .absorb ∧ (e.runCommand c).len = e.len + 8) ∨
      ∃ n : BitVec 3, c = .tail n ∧ (e.runCommand c).len = e.len + n.setWidth 64 := by
  cases c with
  | nop => exact .inl rfl
  | init =>
    rcases e.init_cases with ⟨-, he⟩ | ⟨-, -, he⟩ <;> have hlen := congrArg Engine.len he
    · exact .inl hlen
    · exact .inr (.inl ⟨rfl, hlen⟩)
  | absorb =>
    rcases e.absorb_cases with ⟨-, he⟩ | ⟨-, he⟩ | ⟨-, -, he⟩ <;> have hlen := congrArg Engine.len he
    · exact .inr (.inr (.inr (.inl ⟨rfl, hlen⟩)))
    · exact .inl hlen
    · exact .inl hlen
  | tail n =>
    rcases e.tail_cases n with ⟨-, he⟩ | ⟨-, he⟩ | ⟨-, -, he⟩ <;> have hlen := congrArg Engine.len he
    · exact .inr (.inr (.inr (.inr ⟨n, rfl, hlen⟩)))
    · exact .inl hlen
    · exact .inl hlen
  | finalize =>
    rcases e.finalize_cases with ⟨-, he⟩ | ⟨-, he⟩ | ⟨-, he⟩ | ⟨-, he⟩ <;> exact .inl (congrArg Engine.len he :)
  | abort => exact .inr (.inr (.inl ⟨rfl, rfl⟩))

/-- R29: what each command makes of RESULT. -/
theorem Engine.runCommand_result_cases (c : Command) (e : Engine) :
    (e.runCommand c).result = e.result ∨ (c = .init ∧ (e.runCommand c).result = 0) ∨
      (c = .abort ∧ (e.runCommand c).result = 0) ∨
      (c = .finalize ∧ e.phase = .tailed ∧ (e.runCommand c).phase = .done) := by
  cases c with
  | nop => exact .inl rfl
  | init =>
    rcases e.init_cases with ⟨-, he⟩ | ⟨-, -, he⟩ <;> have hres := congrArg Engine.result he
    · exact .inl hres
    · exact .inr (.inl ⟨rfl, hres⟩)
  | absorb =>
    rcases e.absorb_cases with ⟨-, he⟩ | ⟨-, he⟩ | ⟨-, -, he⟩ <;> exact .inl (congrArg Engine.result he :)
  | tail n =>
    rcases e.tail_cases n with ⟨-, he⟩ | ⟨-, he⟩ | ⟨-, -, he⟩ <;> exact .inl (congrArg Engine.result he :)
  | finalize =>
    rcases e.finalize_cases with ⟨hp, he⟩ | ⟨-, he⟩ | ⟨-, he⟩ | ⟨-, he⟩
    · exact .inr (.inr (.inr ⟨rfl, hp, congrArg Engine.phase he⟩))
    all_goals exact .inl (congrArg Engine.result he :)
  | abort => exact .inr (.inr (.inl ⟨rfl, rfl⟩))

/-- Settles O36, command by command. -/
theorem vLenResultChangeOnlyByTheirCommands : Obligations.VLenResultChangeOnlyByTheirCommands := by
  intro s t h hr
  have hcases : t.engine.hashRegs = s.engine.hashRegs ∨
      ∃ c, NextIs s (.wr 8 0x08 (cmdWord c)) ∧ t.engine = s.engine.runCommand c := by
    rcases step_engine_cases_of_not_reset h hr with he | ⟨r, v, hn, hw⟩
    · exact .inl (by rw [he])
    · rcases hw.hashRegs_or_command with hsame | ⟨c, rfl, rfl, he⟩
      · exact .inl hsame
      · exact .inr ⟨c, hn, he⟩
  rcases hcases with hsame | ⟨c, hn, he⟩
  · simp only [Engine.hashRegs, Prod.mk.injEq] at hsame
    obtain ⟨hv, hlen, hres⟩ := hsame
    exact ⟨.inl hv, .inl hlen, .inl hres⟩
  rw [he]
  refine ⟨?_, ?_, ?_⟩
  · cases c with
    | nop => exact .inl rfl
    | tail n => exact .inr ⟨_, hn, .inr (cmdWord_tail_mem_tailWords n)⟩
    | init | absorb | finalize | abort => exact .inr ⟨_, hn, .inl (by decide)⟩
  · rcases s.engine.runCommand_len_cases c with hl | ⟨rfl, hl⟩ | ⟨rfl, hl⟩ | ⟨rfl, hl⟩ | ⟨n, rfl, hl⟩
    · exact .inl hl
    · exact .inr (.inl ⟨hn, hl⟩)
    · exact .inr (.inr (.inl ⟨hn, hl⟩))
    · exact .inr (.inr (.inr (.inl ⟨hn, hl⟩)))
    · exact .inr (.inr (.inr (.inr ⟨n, hn, hl⟩)))
  · rcases s.engine.runCommand_result_cases c with hl | ⟨rfl, hl⟩ | ⟨rfl, hl⟩ | ⟨rfl, hp, hdone⟩
    · exact .inl hl
    · exact .inr (.inl ⟨hn, hl⟩)
    · exact .inr (.inr (.inl ⟨hn, hl⟩))
    · exact .inr (.inr (.inr ⟨hn, hp, hdone⟩))

/-! ### What the key and V are hidden from -/

/-- Two states that differ at most in what `hide` erases from the engine. -/
def SameUnder (hide : Engine → Engine) (s t : State) : Prop :=
  hide s.engine = hide t.engine ∧ s.inbox = t.inbox ∧ s.response = t.response

/-- An instruction that neither answers nor carries to the rest of the engine what `hide` erases. -/
def Blind (hide : Engine → Engine) (i : Instr) : Prop :=
  ∀ e : Engine, hide ((hide e).effect i) = hide (e.effect i) ∧ (hide e).reply i = e.reply i

/-- States that agree take the same step, to states that agree, when the instruction of the next access is blind. -/
theorem step_sameUnder {hide : Engine → Engine} {s t : State} (h : SameUnder hide s t)
    (hblind : ∀ a i, NextIs s a → decodeBus a = .ok i → Blind hide i) :
    OutcomesRelated (SameUnder hide) (step s) (step t) := by
  obtain ⟨he, hin, hresp⟩ := h
  match hi : s.inbox with
  | [] =>
    rw [step_of_nil hi, step_of_nil (hin ▸ hi)]
    exact ⟨he, hin, hresp⟩
  | .reset c :: rest =>
    rw [step_of_reset hi, step_of_reset (hin ▸ hi)]
    exact ⟨rfl, rfl, rfl⟩
  | .access a :: rest =>
    cases hd : decodeBus a with
    | ok i =>
      have hb := hblind a i (by rw [NextIs, hi]; rfl) hd
      obtain ⟨hse, hsr⟩ := hb s.engine
      obtain ⟨hte, htr⟩ := hb t.engine
      rw [step_of_accepted hi hd, step_of_accepted (hin ▸ hi) hd]
      exact ⟨by rw [← hse, he, hte], rfl, by rw [← hsr, he, htr]⟩
    | error r =>
      cases r with
      | busError off =>
        rw [step_of_busError hi hd, step_of_busError (hin ▸ hi) hd]
        exact ⟨he, rfl, rfl⟩
      | outsideBlock off =>
        rw [step_of_outside hi hd, step_of_outside (hin ▸ hi) hd]
        rfl

/-- R21: the engine with its key erased. -/
def Engine.hideKeys (e : Engine) : Engine := { e with key0 := 0, key1 := 0 }

/-- R18: the engine with V erased. -/
def Engine.hideV (e : Engine) : Engine := { e with v := ⟨0, 0, 0, 0⟩ }

theorem sameButKeys_eq : SameButKeys = SameUnder Engine.hideKeys := by
  funext s t
  obtain ⟨⟨⟩, inbox, response⟩ := s
  obtain ⟨⟨⟩, inbox', response'⟩ := t
  simp only [SameButKeys, SameUnder, Engine.hideKeys, State.mk.injEq, Engine.mk.injEq, eq_iff_iff]
  tauto

theorem sameButV_eq : SameButV = SameUnder Engine.hideV := by
  funext s t
  obtain ⟨⟨⟩, inbox, response⟩ := s
  obtain ⟨⟨⟩, inbox', response'⟩ := t
  simp only [SameButV, SameUnder, Engine.hideV, State.mk.injEq, Engine.mk.injEq, eq_iff_iff]
  tauto

/-- `hide` erases something that no read, no error and no write to a register other than CMD sees. -/
structure Erases (hide : Engine → Engine) : Prop where
  idem : ∀ e, hide (hide e) = hide e
  readReg : ∀ r e, (hide e).readReg r = e.readReg r
  raise : ∀ code info e, hide ((hide e).raise code info) = hide (e.raise code info)
  otherWrite : ∀ r v e, r ≠ .cmd → hide ((hide e).effect (wrInstr r v)) = hide (e.effect (wrInstr r v))

/-- An accepted access is blind when it is no command's, or its command is blind. -/
theorem Erases.blind {hide : Engine → Engine} (hh : Erases hide) {a : Access} {i : Instr} (hd : decodeBus a = .ok i)
    (hcmd : ∀ c e, a = .wr 8 0x08 (cmdWord c) → hide ((hide e).runCommand c) = hide (e.runCommand c)) :
    Blind hide i := fun e => by
  obtain ⟨r, ⟨-, rfl⟩ | ⟨v, rfl, rfl⟩⟩ := decodeBus_ok hd
  · simp [hh.idem, hh.readReg]
  refine ⟨?_, by simp⟩
  by_cases hr : r = .cmd
  · subst hr
    show hide ((hide e).execCmd v) = hide (e.execCmd v)
    cases hdec : decodeCmd v with
    | ok c =>
      rw [Engine.execCmd_of_ok hdec, Engine.execCmd_of_ok hdec]
      exact hcmd c e (by rw [eq_cmdWord_of_decodeCmd hdec]; rfl)
    | error opc =>
      rw [Engine.execCmd_of_error hdec, Engine.execCmd_of_error hdec]
      exact hh.raise _ _ e
  · exact hh.otherWrite r v e hr

/-- R88, R21: no register reads as the key, and only a command can use it. -/
theorem erases_hideKeys : Erases Engine.hideKeys where
  idem _ := rfl
  readReg r e := by cases r <;> rfl
  raise code info e := by
    simp only [Engine.raise, apply_ite Engine.hideKeys]
    rfl
  otherWrite r v e hr := by
    cases r with
    | cmd => exact absurd rfl hr
    | cfg | key0 | key1 =>
      obtain ⟨v, k0, k1, c, d, m, p, er, inf, l, r⟩ := e
      cases p <;> rfl
    | id | status | msg | len | result | const0 | const1 | const2 | const3 => rfl

/-- R18: no register reads as V, and only a command can use it. -/
theorem erases_hideV : Erases Engine.hideV where
  idem _ := rfl
  readReg r e := by cases r <;> rfl
  raise code info e := by
    simp only [Engine.raise, apply_ite Engine.hideV]
    rfl
  otherWrite r v e hr := by
    cases r with
    | cmd => exact absurd rfl hr
    | cfg | key0 | key1 =>
      obtain ⟨v, k0, k1, c, d, m, p, er, inf, l, r⟩ := e
      cases p <;> rfl
    | id | status | msg | len | result | const0 | const1 | const2 | const3 => rfl

/-- R21: no command but INIT reads the key. -/
theorem Engine.hideKeys_runCommand {c : Command} (hc : c ≠ .init) (e : Engine) :
    (e.hideKeys.runCommand c).hideKeys = (e.runCommand c).hideKeys := by
  cases c with
  | init => exact absurd rfl hc
  | nop | abort => rfl
  | absorb | tail | finalize =>
    obtain ⟨v, k0, k1, c, d, m, p, er, inf, l, r⟩ := e
    cases p <;> rfl

/-- R18: no command but FINALIZE carries V to the rest of the engine. -/
theorem Engine.hideV_runCommand {c : Command} (hc : c ≠ .finalize) (e : Engine) :
    (e.hideV.runCommand c).hideV = (e.runCommand c).hideV := by
  cases c with
  | finalize => exact absurd rfl hc
  | nop | abort => rfl
  | init =>
    simp only [Engine.runCommand, Engine.init, apply_ite Engine.hideV]
    rfl
  | absorb | tail =>
    obtain ⟨v, k0, k1, c, d, m, p, er, inf, l, r⟩ := e
    cases p <;> rfl

/-- Settles O37: every accepted access but INIT is blind to the key. -/
theorem keyIsReadOnlyByInit : Obligations.KeyIsReadOnlyByInit := by
  intro s t h hn
  rw [sameButKeys_eq] at h ⊢
  refine step_sameUnder h fun a i ha hd => erases_hideKeys.blind hd fun c e hc => ?_
  exact Engine.hideKeys_runCommand (by rintro rfl; exact hn (hc ▸ ha)) e

/-- Settles O38: every accepted access but FINALIZE is blind to V. -/
theorem vIsSeenOnlyThroughFinalize : Obligations.VIsSeenOnlyThroughFinalize := by
  intro s t h hn
  rw [sameButV_eq] at h ⊢
  refine step_sameUnder h fun a i ha hd => erases_hideV.blind hd fun c e hc => ?_
  exact Engine.hideV_runCommand (by rintro rfl; exact hn (hc ▸ ha)) e

end Sys2Proof.Machine

/-! Proofs about the register block (20_memory.md): which accesses are refused, which stop the model, which repeat without
further effect, and the bytes of a register on the bus. -/

namespace Sys2Proof

/-! ### The dispatch of an access, case by case -/

/-- R43: the three cases in which an access of the block is refused. -/
theorem busErrorAccess_iff (a : Access) :
    busErrorAccess a = true ↔
      (a.width ≠ 8 ∨ a.off % 8 ≠ 0 ∨ a.off = 0x68 ∨ a.off = 0x70 ∨ a.off = 0x78) := by
  simp [busErrorAccess, or_assoc]

/-- R38: an aligned offset of the block that is not reserved is a register's. -/
theorem exists_regAt_eq_some {off : Nat} (hlt : off < 128) (hal : off % 8 = 0)
    (hres : off ≠ 0x68 ∧ off ≠ 0x70 ∧ off ≠ 0x78) : ∃ r, regAt off = some r := by
  have hoffsets : ∀ n < 128, n % 8 = 0 → n ≠ 0x68 ∧ n ≠ 0x70 ∧ n ≠ 0x78 → (regAt n).isSome = true := by decide
  exact Option.isSome_iff_exists.1 (hoffsets off hlt hal hres)

/-- R43: an access of the block in one of the three cases is refused with its own offset. -/
theorem decodeBus_of_refused {a : Access} (hlt : a.off < 128) (hb : busErrorAccess a = true) :
    decodeBus a = .error (.busError a.off) := by
  simp [decodeBus, hlt, hb]

/-- R43, R83, R93: an access of the block in none of the three cases is an instruction. -/
theorem exists_decodeBus_eq_ok {a : Access} (hlt : a.off < 128) (hb : busErrorAccess a ≠ true) :
    ∃ i, decodeBus a = .ok i := by
  have hnone := mt (busErrorAccess_iff a).2 hb
  simp only [not_or, not_not] at hnone
  obtain ⟨-, hal, hres⟩ := hnone
  obtain ⟨r, hr⟩ := exists_regAt_eq_some hlt hal hres
  exact ⟨a.instrOn r, by simp [decodeBus, hlt, hb, hr]⟩

/-- R37: an access outside the block is not addressed to the engine. -/
theorem decodeBus_of_outside {a : Access} (h : 128 ≤ a.off) : decodeBus a = .error (.outsideBlock a.off) := by
  simp [decodeBus, Nat.not_lt.2 h]

end Sys2Proof

namespace Sys2Proof.Machine

open Sys2Proof.Safety

/-! ### Refused accesses and accesses that stop the model -/

/-- R83, R93: no instruction responds the bus error. -/
theorem Engine.reply_ne_busError (i : Instr) (e : Engine) (off : Nat) : e.reply i ≠ .busError off := by
  cases i <;> simp [Engine.reply]

/-- Settles O28: the dispatch refuses in exactly the three cases, and no instruction responds the bus error. -/
theorem busErrorsAreExactlyTheThreeCases : Obligations.BusErrorsAreExactlyTheThreeCases := by
  intro s a rest hlt
  rw [← busErrorAccess_iff]
  refine ⟨fun hb => step_of_busError rfl (decodeBus_of_refused hlt hb), fun hb => ?_⟩
  obtain ⟨i, hi⟩ := exists_decodeBus_eq_ok hlt hb
  exact ⟨_, step_of_accepted rfl hi, rfl, by simp [Engine.reply_ne_busError]⟩

/-- R37, R47: an access of the block is answered, and the step takes that event and no other. -/
theorem exists_step_of_inBlock {s : State} {a : Access} {rest : List Event} (h : s.inbox = .access a :: rest)
    (hlt : a.off < 128) : ∃ t, step s = .next t ∧ t.inbox = rest := by
  by_cases hb : busErrorAccess a = true
  · exact ⟨_, step_of_busError h (decodeBus_of_refused hlt hb), rfl⟩
  · obtain ⟨i, hi⟩ := exists_decodeBus_eq_ok hlt hb
    exact ⟨_, step_of_accepted h hi, rfl⟩

/-- A safe state's step answers, and no event joins the queue, so the next state is safe. -/
theorem exists_step_of_safe {s : State} (hs : Safe s) : ∃ t, step s = .next t ∧ Safe t := by
  match hi : s.inbox with
  | [] => exact ⟨s, step_of_nil hi, hs⟩
  | .reset c :: rest =>
    rw [Safe, hi, List.forall_mem_cons] at hs
    exact ⟨_, step_of_reset hi, hs.2⟩
  | .access a :: rest =>
    rw [Safe, hi, List.forall_mem_cons] at hs
    obtain ⟨hfirst, hrest⟩ := hs
    obtain ⟨t, ht, hin⟩ := exists_step_of_inBlock hi (of_decide_eq_true hfirst)
    exact ⟨t, ht, by rwa [Safe, hin]⟩

/-- Settles O30: the step on an access outside the block, on an empty inbox, and from a safe state. -/
theorem onlyAccessesOutsideTheBlockStop : Obligations.OnlyAccessesOutsideTheBlockStop :=
  ⟨fun _ _ _ h hoff => step_of_outside h (decodeBus_of_outside hoff), fun _ => step_of_nil,
    fun _ => exists_step_of_safe⟩

/-! ### Accesses that repeat without further effect, and those that do not (R46) -/

/-- An instruction whose effect and response are the same the second time keeps the state it has reached. -/
theorem exec_again {i : Instr} {s t : State} (heffect : (s.engine.effect i).effect i = s.engine.effect i)
    (hreply : (s.engine.effect i).reply i = s.engine.reply i) (h : exec i s = .next t) : exec i t = .next t := by
  rw [exec_next h, exec_eq]
  simp only [heffect, hreply]

/-- R46: a read repeated at once keeps the state. -/
theorem exec_rdInstr_again {r : Reg} {s t : State} (h : exec (rdInstr r) s = .next t) :
    exec (rdInstr r) t = .next t :=
  exec_again (by simp) (by simp) h

/-- A write whose effect is idempotent keeps the state when it is repeated, since it responds OK both times. -/
theorem exec_wrInstr_again {r : Reg} {v : Word} {s t : State}
    (heffect : (s.engine.effect (wrInstr r v)).effect (wrInstr r v) = s.engine.effect (wrInstr r v))
    (h : exec (wrInstr r v) s = .next t) : exec (wrInstr r v) t = .next t :=
  exec_again heffect (by simp) h

/-- R95–R97: an unlocked guarded write stores. -/
theorem Engine.guardedWrite_of_unlocked {e : Engine} (h : e.locked = false) (off : Byte) (store : Engine → Engine) :
    e.guardedWrite off store = store e := by
  simp [Engine.guardedWrite, h]

/-- A guarded write is idempotent where it is unlocked, when its store is and does not lock the engine. -/
theorem Engine.guardedWrite_again {e : Engine} {store : Engine → Engine} (off : Byte) (h : e.locked = false)
    (hlocked : (store e).locked = e.locked) (hstore : store (store e) = store e) :
    (e.guardedWrite off store).guardedWrite off store = e.guardedWrite off store := by
  rw [Engine.guardedWrite_of_unlocked h, Engine.guardedWrite_of_unlocked (hlocked.trans h), hstore]

/-- R105: ABSORB in ABSORB. -/
theorem Engine.absorb_of_absorb {e : Engine} (h : e.phase = .absorb) :
    e.absorb = { e with v := compressBlock e.v e.msg e.rounds, len := e.len + 8 } := by
  simp [Engine.absorb, h]

/-- R107: FINALIZE in TAILED. -/
theorem Engine.finalize_of_tailed {e : Engine} (h : e.phase = .tailed) :
    e.finalize =
      { e with
        v := (finalizeState e.v e.finalRounds).2, result := (finalizeState e.v e.finalRounds).1
        phase := .done } := by
  simp [Engine.finalize, h]

/-- R107: FINALIZE in DONE raises SEQUENCE. -/
theorem Engine.finalize_of_done {e : Engine} (h : e.phase = .done) :
    e.finalize = { e with err := .sequence, errInfo := 0x04, phase := .error } := by
  simp [Engine.finalize, Engine.raise, h]

/-- R46: ABSORB repeated in ABSORB compresses MSG a second time. -/
theorem Engine.absorb_absorb {e : Engine} (h : e.phase = .absorb) :
    e.absorb.absorb =
      { e with v := compressBlock (compressBlock e.v e.msg e.rounds) e.msg e.rounds, len := e.len + 8 + 8 } := by
  rw [Engine.absorb_of_absorb h]
  exact Engine.absorb_of_absorb h

/-- The thirteen reads are the reads of the registers. -/
theorem eq_rdInstr_of_mem_reads {i : Instr}
    (h : i ∈ [Instr.rdId, .rdCmd, .rdStatus, .rdCfg, .rdKey0, .rdKey1, .rdMsg, .rdLen, .rdResult, .rdConst0,
      .rdConst1, .rdConst2, .rdConst3]) : ∃ r, i = rdInstr r := by
  have hmap : i ∈ [Reg.id, .cmd, .status, .cfg, .key0, .key1, .msg, .len, .result, .const0, .const1, .const2,
      .const3].map rdInstr := h
  obtain ⟨r, -, hr⟩ := List.mem_map.1 hmap
  exact ⟨r, hr.symm⟩

/-- Settles O39: reads have no effect, the writes store the same value again, and ABSORB and FINALIZE act again. -/
theorem idempotentAccessesAndTheOnesThatAreNot : Obligations.IdempotentAccessesAndTheOnesThatAreNot := by
  refine ⟨?_, fun s hp => ?_, fun s hp => ?_⟩
  · rintro i s t (hmem | ⟨v, rfl⟩ | ⟨hl, v, rfl | rfl | rfl⟩) h
    · obtain ⟨r, rfl⟩ := eq_rdInstr_of_mem_reads hmem
      exact exec_rdInstr_again h
    · exact exec_wrInstr_again (r := .msg) rfl h
    · exact exec_wrInstr_again (r := .cfg) (Engine.guardedWrite_again 0x18 hl rfl rfl) h
    · exact exec_wrInstr_again (r := .key0) (Engine.guardedWrite_again 0x20 hl rfl rfl) h
    · exact exec_wrInstr_again (r := .key1) (Engine.guardedWrite_again 0x28 hl rfl rfl) h
  · have htwice := Engine.absorb_absorb hp
    refine ⟨_, _, exec_eq .absorb s, exec_eq .absorb _, congrArg Engine.v htwice, ?_⟩
    exact (congrArg Engine.len htwice).trans (BitVec.add_assoc _ 8 8)
  · have hdone : s.engine.finalize.phase = .done := congrArg Engine.phase (Engine.finalize_of_tailed hp)
    have htwice := Engine.finalize_of_done hdone
    exact ⟨_, _, exec_eq .finalize s, hdone, exec_eq .finalize _, congrArg Engine.phase htwice,
      congrArg Engine.err htwice⟩

/-! ### The bytes of a register on the bus (R41) -/

/-- R37: an address of the block has its offset. -/
theorem offsetOf_engineBase_add {off : Nat} (h : off < 128) : offsetOf (Config.engineBase + off) = some off := by
  simp [offsetOf, h]

/-- R41: the byte at offset `off + j` of an aligned register is its lane j. -/
theorem Engine.busByte_register (e : Engine) (r : Reg) {j : Nat} (hj : j < 8) :
    e.busByte (Config.engineBase + r.offset + j) = some (lane (e.readReg r) j) := by
  obtain ⟨hlt, hal, -⟩ := r.offset_accepted
  have hoff : offsetOf (Config.engineBase + r.offset + j) = some (r.offset + j) := by
    rw [Nat.add_assoc]; exact offsetOf_engineBase_add (by omega)
  have hreg : 8 * ((r.offset + j) / 8) = r.offset := by omega
  have hlane : (r.offset + j) % 8 = j := by omega
  simp only [Engine.busByte, hoff, hreg, hlane, regAt_offset]

/-- R12, R40: byte j of eight bytes is lane j of their LE64. -/
theorem getElem?_eq_lane_le64 {b : List Byte} {j : Nat} (hb : b.length = 8) (hj : j < 8) :
    b[j]? = some (lane (le64 b) j) := by
  rw [lane_le64 b hj, List.getElem?_eq_getElem (by omega)]; rfl

/-- Settles O52: the lanes of a register, the frame of the block, and the lanes of LE64. -/
theorem registerBytesAreLittleEndianLanes : Obligations.RegisterBytesAreLittleEndianLanes :=
  ⟨fun e r _ hj => e.busByte_register r hj, Nat.mul_mod_right 128 Config.engineFrame,
    fun _ _ hb hj => getElem?_eq_lane_le64 hb hj⟩

end Sys2Proof.Machine

/-! Proofs about the encoding (30_encoding.md): the legal command words, the decoder of command words, the round
trip of the decoder and the encoder both ways, and that the decoder's formulas agree with the spec's tables. -/

namespace Sys2Proof

/-! ### Command words -/

/-- R56, R64: the word of a command decodes to it. -/
@[simp] theorem decodeCmd_cmdWord (c : Command) : decodeCmd (cmdWord c) = .ok c := by
  cases c with
  | tail n => revert n; decide
  | nop | init | absorb | finalize | abort => rfl

/-- R64: a word decodes to a command exactly if it is that command's word. -/
theorem decodeCmd_eq_ok_iff {w : Word} {c : Command} : decodeCmd w = .ok c ↔ w = cmdWord c :=
  ⟨eq_cmdWord_of_decodeCmd, by rintro rfl; exact decodeCmd_cmdWord c⟩

/-- R64: a legal word decodes to some command. -/
theorem exists_decodeCmd_of_legalWord {w : Word} (h : legalWord w = true) : ∃ c, decodeCmd w = .ok c := by
  rw [decodeCmd, if_pos h]
  split_ifs <;> exact ⟨_, rfl⟩

/-- R64: a word that is not legal decodes to its OPC byte. -/
theorem decodeCmd_of_illegal {w : Word} (h : legalWord w = false) : decodeCmd w = .error (opcField w) := by
  rw [decodeCmd, h]; rfl

/-- R64: only a word that is not legal decodes to a byte, its OPC. -/
theorem decodeCmd_eq_error_iff {w : Word} {opc : Byte} :
    decodeCmd w = .error opc ↔ legalWord w = false ∧ opc = opcField w := by
  cases hl : legalWord w with
  | false => simp [decodeCmd_of_illegal hl, eq_comm]
  | true =>
    obtain ⟨c, hc⟩ := exists_decodeCmd_of_legalWord hl
    simp [hc]

/-- R55, R56: the legal words are the words of the commands. -/
theorem legalWord_iff_exists_cmdWord {w : Word} : legalWord w = true ↔ ∃ c, w = cmdWord c := by
  refine ⟨fun h => (exists_decodeCmd_of_legalWord h).imp fun _ => eq_cmdWord_of_decodeCmd, ?_⟩
  rintro ⟨c, rfl⟩
  by_contra hl
  have herr := decodeCmd_of_illegal (Bool.eq_false_iff.2 hl)
  rw [decodeCmd_cmdWord] at herr
  cases herr

/-- Settles O40: the legal words are the words of the commands, which are these thirteen. -/
theorem exactlyThirteenWordsAreLegal : Obligations.ExactlyThirteenWordsAreLegal := by
  intro w
  constructor
  · intro hl
    obtain ⟨c, rfl⟩ := legalWord_iff_exists_cmdWord.1 hl
    cases c with
    | tail n => revert n; decide
    | nop | init | absorb | finalize | abort => decide
  · exact List.all_eq_true.1 (by decide) w

/-- Settles O41: a word decodes to the command whose word it is, or else to its OPC byte. -/
theorem decoderMapsEveryWordToOneCommand : Obligations.DecoderMapsEveryWordToOneCommand :=
  fun _ => ⟨fun _ => decodeCmd_eq_ok_iff, fun _ => decodeCmd_eq_error_iff⟩

/-! ### Decoding and encoding, the two formats -/

/-- R53, R56: the word of a command decodes to the command's row. -/
@[simp] theorem decode_cmdWord (c : Command) : decode (.cmd (cmdWord c)) = .ok c.toInstr := by
  simp [decode]

/-- R53, R83: the read of a register decodes to the register's RD row. -/
@[simp] theorem decode_read (r : Reg) : decode (.bus r.read) = .ok (rdInstr r) := by
  simp [decode]

/-- R53, R93: the write of a register decodes to the register's WR row, with the value written. -/
@[simp] theorem decode_write (r : Reg) (v : Word) : decode (.bus (r.write v)) = .ok (wrInstr r v) := by
  simp [decode]

/-- R56: the encoding of a command's row is the command's word. -/
@[simp] theorem encode_toInstr (c : Command) : encode c.toInstr = .cmd (cmdWord c) := by cases c <;> rfl

/-- R61: the encoding of a register's RD row is the read of the register. -/
@[simp] theorem encode_rdInstr (r : Reg) : encode (rdInstr r) = .bus r.read := by cases r <;> rfl

/-- R61: the encoding of a register's WR row is the write of the register. -/
@[simp] theorem encode_wrInstr (r : Reg) (v : Word) : encode (wrInstr r v) = .bus (r.write v) := by cases r <;> rfl

/-- R53: what decodes is the word of a command, the read of a register or the write of one. -/
theorem decode_ok_cases {x : Encoded} {i : Instr} (h : decode x = .ok i) :
    (∃ c : Command, x = .cmd (cmdWord c) ∧ i = c.toInstr) ∨
    (∃ r : Reg, x = .bus r.read ∧ i = rdInstr r) ∨
    (∃ (r : Reg) (v : Word), x = .bus (r.write v) ∧ i = wrInstr r v) := by
  cases x with
  | cmd w =>
    cases hd : decodeCmd w with
    | ok c =>
      simp only [decode, hd, Except.ok.injEq] at h
      exact .inl ⟨c, congrArg _ (eq_cmdWord_of_decodeCmd hd), h.symm⟩
    | error opc => simp [decode, hd] at h
  | bus a =>
    cases hd : decodeBus a with
    | ok j =>
      simp only [decode, hd, Except.ok.injEq] at h
      obtain ⟨r, ⟨rfl, rfl⟩ | ⟨v, rfl, rfl⟩⟩ := decodeBus_ok hd
      · exact .inr (.inl ⟨r, rfl, h.symm⟩)
      · exact .inr (.inr ⟨r, v, rfl, h.symm⟩)
    | error e => simp [decode, hd] at h

/-- R53: an encoding that decodes is the encoding of what it decodes to. -/
theorem encode_of_decode {x : Encoded} {i : Instr} (h : decode x = .ok i) : encode i = x := by
  obtain ⟨c, rfl, rfl⟩ | ⟨r, rfl, rfl⟩ | ⟨r, v, rfl, rfl⟩ := decode_ok_cases h
  · exact encode_toInstr c
  · exact encode_rdInstr r
  · exact encode_wrInstr r v

/-- Settles O42: each row is a command's, a register's read or a register's write, and the encoding of each kind decodes
to its row. -/
theorem decodeOfEncodeIsTheInstruction : Obligations.DecodeOfEncodeIsTheInstruction := by
  intro i
  cases i with
  | nop | init | absorb | tail | finalize | abort => exact decode_cmdWord _
  | rdId | rdCmd | rdStatus | rdCfg | rdKey0 | rdKey1 | rdMsg | rdLen | rdResult | rdConst0 | rdConst1 | rdConst2
  | rdConst3 => exact decode_read _
  | wrCmd | wrCfg | wrKey0 | wrKey1 | wrMsg | wrId | wrStatus | wrLen | wrResult | wrConst0 | wrConst1 | wrConst2
  | wrConst3 => exact decode_write _ _

/-! ### The formulas of the decoder and the tables of the spec -/

/-- A field in which every bit of the mask is set is unchanged by the mask. -/
theorem extractLsb'_and_of_allOnes {w m : Word} {k n : Nat} (hm : m.extractLsb' k n = BitVec.allOnes n) :
    (w &&& m).extractLsb' k n = w.extractLsb' k n := by
  rw [BitVec.extractLsb'_and, hm, BitVec.and_allOnes]

/-- R55: a word that fits the table's TAIL row is legal: the row fixes OPC and RSV and leaves NB open. -/
theorem legalWord_of_fits_tail {w : Word} (h : w &&& 0xfffffffffffff8ff = 0x3) : legalWord w = true := by
  have hopc : opcField w = 3 := by
    rw [opcField, ← extractLsb'_and_of_allOnes (m := 0xfffffffffffff8ff) (by decide), h]; rfl
  have hrsv : rsvField w = 0 := by
    rw [rsvField, ← extractLsb'_and_of_allOnes (m := 0xfffffffffffff8ff) (by decide), h]; rfl
  exact (legalWord_iff w).2 ⟨by rw [hopc]; decide, hrsv, .inl hopc⟩

/-- R55: a word that fits a row whose mask is every bit is legal if the row's pattern is. -/
theorem legalWord_of_fits_exact {w p : Word} (h : w &&& 0xffffffffffffffff = p) (hp : legalWord p = true) :
    legalWord w = true :=
  BitVec.and_allOnes.symm.trans h ▸ hp

/-- R55: a word that fits a row of the opcode table is legal. -/
theorem legalWord_of_wordWf {w : Word} (h : wordWf w = true) : legalWord w = true := by
  simp only [wordWf, cmdRows, CmdRow.fits, List.any_cons, List.any_nil, Bool.or_false, Bool.or_eq_true, beq_iff_eq] at h
  rcases h with h | h | h | h | h | h
  case inr.inr.inr.inl => exact legalWord_of_fits_tail h
  all_goals exact legalWord_of_fits_exact h rfl

/-- R38, R43: an offset of the register map is aligned and none of the reserved ones. -/
theorem aligned_of_mem_registerOffsets : ∀ off ∈ registerOffsets,
    off % 8 = 0 ∧ off ≠ 0x68 ∧ off ≠ 0x70 ∧ off ≠ 0x78 := by decide

/-- R43, R83, R93: an access that is well formed by the register map is an instruction. -/
theorem exists_decodeBus_of_wf {a : Access} (h : a.wf = true) : ∃ i, decodeBus a = .ok i := by
  simp only [Access.wf, Access.inBlock, Access.widthWf, Access.offsetWf, Bool.and_eq_true, decide_eq_true_eq,
    beq_iff_eq, List.contains_iff_mem] at h
  obtain ⟨⟨hlt, hwidth⟩, hmem⟩ := h
  have haligned := aligned_of_mem_registerOffsets _ hmem
  refine exists_decodeBus_eq_ok hlt fun hb => ?_
  have hrefused := (busErrorAccess_iff a).1 hb
  tauto

/-- R53: what is well formed by the spec's tables decodes. -/
theorem exists_decode_of_wf {x : Encoded} (h : x.wf = true) : ∃ i, decode x = .ok i := by
  cases x with
  | cmd w =>
    obtain ⟨c, rfl⟩ := legalWord_iff_exists_cmdWord.1 (legalWord_of_wordWf h)
    exact ⟨c.toInstr, decode_cmdWord c⟩
  | bus a =>
    obtain ⟨i, hi⟩ := exists_decodeBus_of_wf h
    exact ⟨i, by simp [decode, hi]⟩

/-- R53: the encoding of every instruction is well formed by the spec's tables. -/
theorem encode_wf (i : Instr) : (encode i).wf = true := by
  cases i with
  | tail n => exact Laws.Encodable.tail n
  | _ => rfl

/-- Settles O43: what decodes is the encoding of its instruction, so it is well formed; and the formulas accept what the
tables do. -/
theorem encodeOfDecodeIsTheEncoding : Obligations.EncodeOfDecodeIsTheEncoding := fun _ =>
  ⟨fun _ => encode_of_decode, exists_decode_of_wf, fun ⟨i, hi⟩ => encode_of_decode hi ▸ encode_wf i⟩

/-- Settles O44: the accepted words and accesses are encodings of their instructions; the refused ones are computed. -/
theorem sampleEncodingsDecode : Obligations.SampleEncodingsDecode :=
  ⟨decode_cmdWord .init, decode_cmdWord (.tail 7), decode_cmdWord .abort, rfl, rfl, rfl, decode_read .status,
    decode_write .key0 5, rfl, rfl⟩

end Sys2Proof

/-! Proofs about the datapath (40_datapath.md): rotation bit by bit, SipRound and its inverse, the iterated rounds, the
order of mixing, the constants, Encode(B) byte by byte, and MissingInput. -/

namespace Sys2Proof.Machine

/-! ### Rotation (R69) -/

/-- R69: the place of every bit. -/
theorem getLsbD_rotl (a : Word) {n i : Nat} (h0 : 0 < n) (hn : n < 64) (hi : i < 64) :
    (rotl a n).getLsbD i = a.getLsbD ((i + 64 - n) % 64) := by
  rw [rotl, BitVec.getLsbD_or, BitVec.getLsbD_shiftLeft, BitVec.getLsbD_ushiftRight]
  by_cases h : i < n
  · have hplace : (i + 64 - n) % 64 = 64 - n + i := by omega
    simp [h, hplace]
  · have hplace : (i + 64 - n) % 64 = i - n := by omega
    have hout : a.getLsbD (64 - n + i) = false := BitVec.getLsbD_of_ge _ _ (by omega)
    simp [h, hplace, hi, hout]

/-- Settles O45: the formula is the definition's, and a bit comes from the left shift or from the right one. -/
theorem rotlMovesEachBit : Obligations.RotlMovesEachBit :=
  fun a _ h0 hn => ⟨rfl, fun _ hi => getLsbD_rotl a h0 hn hi⟩

/-- Two rotations that together move every bit by 64 places cancel. -/
@[simp] theorem rotl_rotl_cancel (a : Word) {n m : Nat} (hn : 0 < n) (hm : 0 < m) (h : n + m = 64) :
    rotl (rotl a n) m = a := by
  apply BitVec.eq_of_getLsbD_eq
  intro i hi
  have hplace : ((i + 64 - m) % 64 + 64 - n) % 64 = i := by omega
  rw [getLsbD_rotl _ hm (by omega) hi, getLsbD_rotl _ hn (by omega) (Nat.mod_lt _ (by omega)), hplace]

/-! ### SipRound and its iterates (R70, R71) -/

/-- Settles O47: the steps of R70 substituted into each other, with R69's rotation as the library's. -/
theorem sipRoundClosedForm : Obligations.SipRoundClosedForm := by
  intro v0 v1 v2 v3
  simp [sipRound, rotl_eq_rotateLeft]

/-- R70 backwards: the words `a`, `b`, `c`, `d` of the closed form (and `c + b`), recovered from the result,
then the words they were made from. -/
def sipRoundInv (w : V4) : V4 :=
  let d := rotl (w.v3 ^^^ w.v0) 43
  let a := rotl (w.v0 - d) 32
  let cb := rotl w.v2 32
  let b := rotl (w.v1 ^^^ cb) 47
  let c := cb - b
  let v1 := rotl (b ^^^ a) 51
  let v3 := rotl (d ^^^ c) 48
  ⟨a - v1, v1, c - v3, v3⟩

/-- Each rotation, addition and XOR of a round is undone. -/
theorem sipRoundInv_sipRound : Function.LeftInverse sipRoundInv sipRound := by
  rintro ⟨v0, v1, v2, v3⟩
  simp [sipRound, sipRoundInv]

/-- Each rotation, subtraction and XOR of the inverse is undone. -/
theorem sipRound_sipRoundInv : Function.RightInverse sipRoundInv sipRound := by
  rintro ⟨w0, w1, w2, w3⟩
  simp [sipRound, sipRoundInv]

/-- Settles O46: SipRound has a two-sided inverse. -/
theorem sipRoundIsABijection : Obligations.SipRoundIsABijection :=
  Function.bijective_iff_has_inverse.2 ⟨sipRoundInv, sipRoundInv_sipRound, sipRound_sipRoundInv⟩

/-- R71: SipRounds is the iterate of SipRound. -/
theorem sipRounds_eq_iterate (v : V4) (n : Nat) : sipRounds v n = sipRound^[n] v := by
  induction n generalizing v with
  | zero => rfl
  | succ n ih => rw [sipRounds_succ, ih, Function.iterate_succ_apply]

/-- R70: SipRound adds no constant, so it fixes the zero state. -/
theorem sipRound_zero : sipRound ⟨0, 0, 0, 0⟩ = ⟨0, 0, 0, 0⟩ := by decide

/-- Settles O48, by induction on the number of rounds; a state that one round fixes is fixed by all. -/
theorem sipRoundsIterate : Obligations.SipRoundsIterate :=
  ⟨sipRounds_eq_iterate, fun n => (sipRounds_eq_iterate _ n).trans (Function.iterate_fixed sipRound_zero n)⟩

/-! ### Mixing and the constants (R65, R66, R72, R76, R78) -/

/-- Settles O49: the definitions mix in this order. -/
theorem blockAndFinalMixingOrder : Obligations.BlockAndFinalMixingOrder :=
  ⟨fun _ _ _ _ _ _ => rfl, fun _ _ _ _ _ => rfl⟩

/-- Settles O50: the string's bytes and their chunks are computed. -/
theorem constantsAreTheBigEndianChunks : Obligations.ConstantsAreTheBigEndianChunks :=
  ⟨by decide, by decide, rfl, fun _ _ => rfl⟩

/-! ### Encode(B) (R73–R75) -/

/-- R73: Encode(B) has N(L) words. -/
@[simp] theorem encodeMessage_length (b : List Byte) : (encodeMessage b).length = b.length / 8 + 1 := by
  simp [encodeMessage]

/-- R74: the first floor(L/8) words are the full blocks. -/
theorem encodeMessage_getElem?_of_lt {b : List Byte} {i : Nat} (h : i < b.length / 8) :
    (encodeMessage b)[i]? = some (fullBlock b i) := by
  rw [encodeMessage, List.getElem?_append_left (by simpa using h)]
  simp [fullBlocks, h]

/-- R75: the last word is the final block. -/
theorem encodeMessage_getElem?_last (b : List Byte) : (encodeMessage b)[b.length / 8]? = some (finalBlock b) := by
  simp [encodeMessage]

/-- R74: byte j of full block i is B[8i+j]. -/
theorem getElem?_eq_lane_fullBlock {b : List Byte} {i j : Nat} (hi : i < b.length / 8) (hj : j < 8) :
    b[8 * i + j]? = some (lane (fullBlock b i) j) := by
  have hlen : ((b.drop (8 * i)).take 8).length = 8 := by simp; omega
  rw [fullBlock, ← getElem?_eq_lane_le64 hlen hj, List.getElem?_take_of_lt hj, List.getElem?_drop]

/-- R75: below the tag, byte j of the final block is trailing byte j, and 0 past their end. -/
theorem lane_finalBlock_of_lt (b : List Byte) {j : Nat} (hj : j < 7) :
    lane (finalBlock b) j = (trailing b)[j]?.getD 0 := by
  rw [finalBlock, lane_or, lane_tag_of_lt _ hj, lane_le64 _ (by omega)]
  exact BitVec.or_zero

/-- R75: byte 7 of the final block is the tag. -/
theorem lane_finalBlock_seven (b : List Byte) : lane (finalBlock b) 7 = BitVec.ofNat 8 b.length := by
  have hnone : (trailing b)[7]? = none := List.getElem?_eq_none (by rw [trailing_length]; omega)
  rw [finalBlock, lane_or, lane_le64 _ (by decide), hnone, lane_tag_seven]
  apply BitVec.eq_of_toNat_eq
  simp

/-- R75: the low L mod 8 bytes of the final block are the trailing bytes of B. -/
theorem getElem?_eq_lane_finalBlock {b : List Byte} {j : Nat} (hj : j < b.length % 8) :
    b[8 * (b.length / 8) + j]? = some (lane (finalBlock b) j) := by
  have hlt : 8 * (b.length / 8) + j < b.length := by omega
  rw [lane_finalBlock_of_lt b (by omega), trailing, List.getElem?_drop, List.getElem?_eq_getElem hlt]
  rfl

/-- R75: the bytes between the trailing ones and the tag are 0. -/
theorem lane_finalBlock_padding {b : List Byte} {j : Nat} (hb : b.length % 8 ≤ j) (hj : j < 7) :
    lane (finalBlock b) j = 0 := by
  rw [lane_finalBlock_of_lt b hj, List.getElem?_eq_none (by rwa [trailing_length])]
  rfl

/-- Settles O51: the words are the full blocks and the final block, and the lanes of each are known. -/
theorem encodeMessagePlacesEveryByte : Obligations.EncodeMessagePlacesEveryByte := by
  intro b
  have hlength := encodeMessage_length b
  refine ⟨by omega, hlength, fun i j hi hj => ?_, finalBlock b, encodeMessage_getElem?_last b, fun j hj => ?_,
    fun j hb hj => ?_, ?_⟩
  · exact ⟨fullBlock b i, encodeMessage_getElem?_of_lt hi, getElem?_eq_lane_fullBlock hi hj⟩
  · exact getElem?_eq_lane_finalBlock hj
  · exact lane_finalBlock_padding hb hj
  · rw [lane_finalBlock_seven]; exact BitVec.toNat_ofNat _ _

/-! ### MissingInput (R82, R114) -/

/-- R107, R114: FINALIZE with no final block compressed. -/
theorem Engine.finalize_of_no_final_block {e : Engine} (h : e.phase = .idle ∨ e.phase = .absorb) :
    e.finalize = { e with err := .missingInput, errInfo := 0x04, phase := .error } := by
  rcases h with h | h <;> simp [Engine.finalize, Engine.raise, h]

/-- Settles O53: the reference function by its definition, FINALIZE by its effect in IDLE and ABSORB. -/
theorem missingInputGivesNoValue : Obligations.MissingInputGivesNoValue := by
  refine ⟨fun _ _ _ _ => rfl, fun _ _ _ _ _ => rfl, fun s hp => ⟨_, exec_eq .finalize s, ?_⟩⟩
  have heffect : s.engine.effect .finalize = _ := Engine.finalize_of_no_final_block hp
  simp only [heffect, and_self]

end Sys2Proof.Machine

/-! Proofs about the register accesses (41_register_access.md): the step of an access and the instruction it is, the
reads, the writes, CMD, and the lock on the key and the counts. -/

namespace Sys2Proof

/-! ### An access and the instruction it is -/

/-- R43: an access of another width than 8 at a register's offset is refused. -/
theorem decodeBus_of_width_ne {a : Access} {r : Reg} (hoff : a.off = r.offset) (hw : a.width ≠ 8) :
    decodeBus a = .error (.busError r.offset) := by
  have hlt : a.off < 128 := hoff ▸ r.offset_accepted.1
  rw [← hoff]
  exact decodeBus_of_refused hlt ((busErrorAccess_iff a).2 (.inl hw))

/-- R83: an accepted read is the read of a register. -/
theorem eq_rdInstr_of_decodeBus_rd {n off : Nat} {i : Instr} (h : decodeBus (.rd n off) = .ok i) :
    ∃ r, i = rdInstr r := by
  obtain ⟨r, ⟨-, hi⟩ | ⟨v, ha, -⟩⟩ := decodeBus_ok h
  · exact ⟨r, hi⟩
  · cases ha

/-- R53: the decoder answers an instruction for an access only if the dispatch does. -/
theorem decodeBus_eq_ok_of_decode {a : Access} {i : Instr} (h : decode (.bus a) = .ok i) : decodeBus a = .ok i := by
  rcases decode_ok_cases h with ⟨c, hx, -⟩ | ⟨r, hx, rfl⟩ | ⟨r, v, hx, rfl⟩ <;> cases hx
  · exact decodeBus_read r
  · exact decodeBus_write r v

/-- R53: the decoder answers an instruction for a command word only if it is a command's word and row. -/
theorem eq_cmdWord_of_decode {w : Word} {i : Instr} (h : decode (.cmd w) = .ok i) :
    ∃ c : Command, w = cmdWord c ∧ i = c.toInstr := by
  rcases decode_ok_cases h with ⟨c, hx, hi⟩ | ⟨r, hx, -⟩ | ⟨r, v, hx, -⟩ <;> cases hx
  exact ⟨c, rfl, hi⟩

/-- R64: a word that is no command's decodes to its OPC byte. -/
theorem decodeCmd_of_ne_cmdWord {w : Word} (h : ∀ c, w ≠ cmdWord c) : decodeCmd w = .error (opcField w) := by
  refine decodeCmd_of_illegal (Bool.eq_false_iff.2 fun hlegal => ?_)
  obtain ⟨c, hc⟩ := legalWord_iff_exists_cmdWord.1 hlegal
  exact h c hc

end Sys2Proof

namespace Sys2Proof.Machine

open Sys2Proof.Safety

/-- R83, R93: the step of an accepted access runs its instruction on the state with the event taken. -/
theorem step_eq_exec_of_accepted {s : State} {a : Access} {i : Instr} {rest : List Event}
    (h : s.inbox = .access a :: rest) (hd : decodeBus a = .ok i) : step s = exec i { s with inbox := rest } := by
  rw [step_of_accepted h hd, exec_eq]

/-- R43: the step of an access of another width than 8 at a register's offset. -/
theorem step_of_width_ne {s : State} {a : Access} {r : Reg} {rest : List Event} (hoff : a.off = r.offset)
    (hw : a.width ≠ 8) :
    step { s with inbox := .access a :: rest } =
      .next { s with inbox := rest, response := some (.busError r.offset) } :=
  step_of_busError rfl (decodeBus_of_width_ne hoff hw)

/-- R94: the write of a command's word to CMD is the command. -/
theorem exec_wrCmd_cmdWord (c : Command) (s : State) : exec (.wrCmd (cmdWord c)) s = exec c.toInstr s := by
  have heffect : s.engine.effect (.wrCmd (cmdWord c)) = s.engine.effect c.toInstr := by
    rw [Engine.effect_toInstr]
    exact Engine.execCmd_of_ok (decodeCmd_cmdWord c) s.engine
  have hreply : s.engine.reply (.wrCmd (cmdWord c)) = s.engine.reply c.toInstr :=
    (Engine.reply_toInstr c s.engine).symm
  rw [exec_eq, exec_eq, heffect, hreply]

/-- Settles O29: an access by its dispatch, a command word by the write to CMD that carries it. -/
theorem stepRunsTheDecodedInstruction : Obligations.StepRunsTheDecodedInstruction := by
  refine ⟨fun s a rest i h hd => step_eq_exec_of_accepted h (decodeBus_eq_ok_of_decode hd), ?_⟩
  intro s w rest i h hd
  obtain ⟨c, rfl, rfl⟩ := eq_cmdWord_of_decode hd
  have hwrite : decodeBus (.wr 8 0x08 (cmdWord c)) = .ok (.wrCmd (cmdWord c)) := decodeBus_write .cmd (cmdWord c)
  rw [step_eq_exec_of_accepted h hwrite, exec_wrCmd_cmdWord]

/-! ### The register reads (R83–R92) -/

/-- R83: every register is read as the instruction and as the access, at its own offset. -/
theorem readsAs_rdInstr (r : Reg) : ReadsAs (rdInstr r) r.offset fun e => e.readReg r := by
  refine fun s => ⟨by simp [exec_eq], fun n rest => ?_⟩
  split
  next hn => subst hn; exact step_read r s.engine rest s.response
  next hn => exact step_of_width_ne (a := .rd n r.offset) rfl hn

/-- Settles O9: a read is refused, or it is a register's read, which has no effect. -/
theorem readsHaveNoSideEffects : Obligations.ReadsHaveNoSideEffects := by
  intro s n off rest hlt
  by_cases hb : busErrorAccess (.rd n off) = true
  · exact ⟨_, step_of_busError rfl (decodeBus_of_refused hlt hb)⟩
  · obtain ⟨i, hd⟩ := exists_decodeBus_eq_ok (a := .rd n off) hlt hb
    obtain ⟨r, rfl⟩ := eq_rdInstr_of_decodeBus_rd hd
    refine ⟨.data (s.engine.readReg r), ?_⟩
    rw [step_of_accepted rfl hd]
    simp

/-- Settles O1: the value of ID. -/
theorem readIdReturnsConstant : Obligations.ReadIdReturnsConstant := readsAs_rdInstr .id

/-- Settles O2: CMD is write-only. -/
theorem readCmdReturnsZero : Obligations.ReadCmdReturnsZero := readsAs_rdInstr .cmd

/-- Settles O3: the word of STATUS, by its definition. -/
theorem readStatusAssemblesFields : Obligations.ReadStatusAssemblesFields := readsAs_rdInstr .status

/-- R87 with C, too, written as a placed field. -/
theorem Engine.cfgWord_eq_placed (e : Engine) :
    e.cfgWord = e.cfgC.setWidth 64 <<< 0 ||| e.cfgD.setWidth 64 <<< 16 := by
  simp [Engine.cfgWord]

/-- Settles O5: the read, and each bit range meets one placed field, or none. -/
theorem readCfgAssemblesCounts : Obligations.ReadCfgAssemblesCounts := by
  refine ⟨readsAs_rdInstr .cfg, fun e => ?_⟩
  simp only [Engine.readReg, Engine.cfgWord_eq_placed, BitVec.extractLsb'_or]
  refine ⟨?_, ?_, ?_⟩ <;>
    simp [extractLsb'_placed_same, extractLsb'_placed_of_disjoint, -BitVec.shiftLeft_zero]

/-- Settles O6: the keys are write-only. -/
theorem readKeysReturnZero : Obligations.ReadKeysReturnZero := ⟨readsAs_rdInstr .key0, readsAs_rdInstr .key1⟩

/-- Settles O7: the registers' own values. -/
theorem readMsgLenResultReturnTheRegister : Obligations.ReadMsgLenResultReturnTheRegister :=
  ⟨readsAs_rdInstr .msg, readsAs_rdInstr .len, readsAs_rdInstr .result⟩

/-- Settles O8: the constants' values. -/
theorem readConstantsReturnC : Obligations.ReadConstantsReturnC :=
  ⟨readsAs_rdInstr .const0, readsAs_rdInstr .const1, readsAs_rdInstr .const2, readsAs_rdInstr .const3⟩

/-! ### The register writes (R93–R99) -/

/-- R93: every register is written as the instruction and as the access, at its own offset. -/
theorem writesAs_wrInstr (r : Reg) : WritesAs (wrInstr r) r.offset fun v e => e.effect (wrInstr r v) := by
  refine fun s v => ⟨by simp [exec_eq], fun n rest => ?_⟩
  split
  next hn => subst hn; exact step_write r v s.engine rest s.response
  next hn => exact step_of_width_ne (a := .wr n r.offset v) rfl hn

/-- R95–R97, R100: a guarded write by phase. -/
theorem Engine.guardedWrite_eq (off : Byte) (store : Engine → Engine) (e : Engine) :
    e.guardedWrite off store =
      if e.phase = .absorb ∨ e.phase = .tailed then { e with err := .locked, errInfo := off, phase := .error }
      else store e := by
  simp only [← e.locked_iff]
  rcases e.guardedWrite_cases off store with ⟨hl, he⟩ | ⟨hl, he⟩ <;> simp [hl, he]

/-- R95–R97: the write of a register the lock guards, case by case. -/
theorem writesAs_of_guarded {r : Reg} {off : Byte} {store : Word → Engine → Engine}
    (h : ∀ (v : Word) (e : Engine), e.effect (wrInstr r v) = e.guardedWrite off (store v)) :
    WritesAs (wrInstr r) r.offset fun v e =>
      if e.phase = .absorb ∨ e.phase = .tailed then { e with err := .locked, errInfo := off, phase := .error }
      else store v e := by
  simpa only [h, Engine.guardedWrite_eq] using writesAs_wrInstr r

/-- Settles O10: the guarded write of CFG. -/
theorem writeCfgStoresOrRaisesLocked : Obligations.WriteCfgStoresOrRaisesLocked :=
  writesAs_of_guarded (r := .cfg) (store := fun v e => { e with cfgC := cfgCOf v, cfgD := cfgDOf v })
    fun _ _ => rfl

/-- Settles O11: the guarded writes of KEY0 and KEY1. -/
theorem writeKeysStoreOrRaiseLocked : Obligations.WriteKeysStoreOrRaiseLocked :=
  ⟨writesAs_of_guarded (r := .key0) (store := fun v e => { e with key0 := v }) fun _ _ => rfl,
    writesAs_of_guarded (r := .key1) (store := fun v e => { e with key1 := v }) fun _ _ => rfl⟩

/-- Settles O12: no lock guards MSG. -/
theorem writeMsgStoresInEveryPhase : Obligations.WriteMsgStoresInEveryPhase := writesAs_wrInstr .msg

/-- Settles O13: a read-only register's write has no effect. -/
theorem writesToReadOnlyRegistersDoNothing : Obligations.WritesToReadOnlyRegistersDoNothing :=
  ⟨writesAs_wrInstr .id, writesAs_wrInstr .status, writesAs_wrInstr .len, writesAs_wrInstr .result,
    writesAs_wrInstr .const0, writesAs_wrInstr .const1, writesAs_wrInstr .const2, writesAs_wrInstr .const3⟩

/-! ### CMD (R94, R102) -/

/-- R102: the write of a word that is no command's: ILLEGAL_CMD, or nothing in ERROR. -/
theorem exec_wrCmd_of_ne_cmdWord {w : Word} (h : ∀ c, w ≠ cmdWord c) (s : State) :
    exec (.wrCmd w) s =
      if s.engine.phase = .error then .next { s with response := some .ok }
      else
        .next { s with
          engine := { s.engine with err := .illegalCmd, errInfo := opcField w, phase := .error }
          response := some .ok } := by
  have heffect : s.engine.effect (.wrCmd w) = s.engine.raise .illegalCmd (opcField w) :=
    Engine.execCmd_of_error (decodeCmd_of_ne_cmdWord h) s.engine
  have hreply : s.engine.reply (.wrCmd w) = .ok := rfl
  rw [exec_eq, heffect, hreply]
  split
  next hp => rw [Engine.raise_eq_of_error _ _ _ hp]
  next hp => rw [Engine.raise_eq_of_ne _ _ _ hp]

/-- Settles O14: a command's word, any other word, and the access by its width. -/
theorem writeCmdPerformsTheCommand : Obligations.WriteCmdPerformsTheCommand := by
  refine ⟨fun s c => ⟨_, (exec_wrCmd_cmdWord c s).trans (exec_eq _ s), exec_eq _ s⟩,
    fun s w h => exec_wrCmd_of_ne_cmdWord h s, fun s w n rest => ?_⟩
  split
  next hn => subst hn; exact step_eq_exec_of_accepted rfl (decodeBus_write .cmd w)
  next hn => exact step_of_width_ne (a := .wr n 0x08 w) (r := .cmd) rfl hn

/-! ### The lock (R100) -/

/-- R34, R100: while locked a write leaves the key and the counts; a store of one asks for an open lock. -/
theorem WriteEffect.key_counts_of_locked {e f : Engine} {r : Reg} {v : Word} (hw : WriteEffect e r v f)
    (hl : e.locked = true) : f.key0 = e.key0 ∧ f.key1 = e.key1 ∧ f.cfgC = e.cfgC ∧ f.cfgD = e.cfgD := by
  cases hw with
  | command =>
    have hsame := Engine.execCmd_hostRegs v e
    simp only [Engine.hostRegs, Prod.mk.injEq] at hsame
    exact hsame.2
  | ignored | msg | lockedOut => exact ⟨rfl, rfl, rfl, rfl⟩
  | cfg _ hopen | key0 _ hopen | key1 _ hopen => simp [hl] at hopen

/-- Settles O34, by what a write can do while locked. -/
theorem keyAndCountsAreFixedWhileLocked : Obligations.KeyAndCountsAreFixedWhileLocked := by
  intro s t h hphase hr
  rcases step_engine_cases_of_not_reset h hr with he | ⟨r, v, -, hw⟩
  · rw [he]; exact ⟨rfl, rfl, rfl, rfl⟩
  · exact hw.key_counts_of_locked ((Engine.locked_iff _).2 hphase)

end Sys2Proof.Machine

/-! Proofs about the commands (42_commands.md): each command's effect by phase, TAIL's block, the phase table of R112, and
the Compute protocol against the reference function. -/

namespace Sys2Proof.Machine

open Sys2Proof.Safety

/-! ### A command as instruction, as the write of its word, and as the step of that access (R94, R109) -/

/-- R94, R109: a command's instruction, its word written to CMD and the step of that access have the command's effect. -/
theorem performs_toInstr (c : Command) (s : State) {e : Engine} (h : s.engine.runCommand c = e) :
    Performs c.toInstr (cmdWord c) s e := by
  have hexec (s : State) : exec c.toInstr s = .next { s with engine := s.engine.runCommand c, response := some .ok } := by
    simp [exec_eq]
  subst h
  refine ⟨hexec s, (exec_wrCmd_cmdWord c s).trans (hexec s), fun rest => ?_⟩
  have hwrite : decodeBus (.wr 8 0x08 (cmdWord c)) = .ok (.wrCmd (cmdWord c)) := decodeBus_write .cmd (cmdWord c)
  rw [step_eq_exec_of_accepted rfl hwrite, exec_wrCmd_cmdWord, hexec]

/-! ### The commands by phase (R103–R108) -/

section
variable {e : Engine} (n : BitVec 3)

/-- R104: INIT with both counts nonzero. -/
theorem Engine.init_of_counts (hc : e.cfgC ≠ 0) (hd : e.cfgD ≠ 0) :
    e.init = e.restart (initState e.key0 e.key1) .absorb := if_neg (not_or.2 ⟨hc, hd⟩)

/-- R104: INIT with a count 0. -/
theorem Engine.init_of_zero_count (h : e.cfgC = 0 ∨ e.cfgD = 0) : e.init = e.zeroRounds := if_pos h

/-- R116: ABSORB in ERROR. -/
theorem Engine.absorb_of_error (h : e.phase = .error) : e.absorb = e := if_pos h

/-- R105: ABSORB out of sequence. -/
theorem Engine.absorb_of_ne (ha : e.phase ≠ .absorb) (he : e.phase ≠ .error) :
    e.absorb = { e with err := .sequence, errInfo := 0x02, phase := .error } := by
  simp [Engine.absorb, Engine.raise, ha, he]

/-- R106: TAIL in ABSORB. -/
theorem Engine.tail_of_absorb (h : e.phase = .absorb) :
    e.tail n =
      { e with
        v := compressBlock e.v (e.tailBlock n) e.rounds, len := e.tailLength n, phase := .tailed } := by
  simp [Engine.tail, h]

/-- R116: TAIL in ERROR. -/
theorem Engine.tail_of_error (h : e.phase = .error) : e.tail n = e := if_pos h

/-- R106: TAIL out of sequence. -/
theorem Engine.tail_of_ne (ha : e.phase ≠ .absorb) (he : e.phase ≠ .error) :
    e.tail n = { e with err := .sequence, errInfo := 0x03, phase := .error } := by
  simp [Engine.tail, Engine.raise, ha, he]

/-- R116: FINALIZE in ERROR. -/
theorem Engine.finalize_of_error (h : e.phase = .error) : e.finalize = e := if_pos h

end

/-- Settles O15: NOP is the identity. -/
theorem nopHasNoEffect : Obligations.NopHasNoEffect := fun s => performs_toInstr .nop s rfl

/-- Settles O16, by the two cases of INIT. -/
theorem initStartsAComputationOrRaisesZeroRounds : Obligations.InitStartsAComputationOrRaisesZeroRounds :=
  fun s => ⟨fun hc hd => performs_toInstr .init s (Engine.init_of_counts hc hd),
    fun h => performs_toInstr .init s (Engine.init_of_zero_count h)⟩

/-- Settles O17, phase by phase. -/
theorem absorbCompressesMsgInAbsorbOnly : Obligations.AbsorbCompressesMsgInAbsorbOnly := by
  refine fun s => performs_toInstr .absorb s ?_
  cases hp : s.engine.phase with
  | absorb => exact Engine.absorb_of_absorb hp
  | error => exact Engine.absorb_of_error hp
  | idle | tailed | done => exact Engine.absorb_of_ne (by simp [hp]) (by simp [hp])

/-- Settles O18, phase by phase. -/
theorem tailCompressesTheFinalBlockInAbsorbOnly : Obligations.TailCompressesTheFinalBlockInAbsorbOnly := by
  refine fun s n => performs_toInstr (.tail n) s ?_
  cases hp : s.engine.phase with
  | absorb => exact Engine.tail_of_absorb n hp
  | error => exact Engine.tail_of_error n hp
  | idle | tailed | done => exact Engine.tail_of_ne n (by simp [hp]) (by simp [hp])

/-- Settles O19, phase by phase. -/
theorem finalizeProducesTheResultInTailedOnly : Obligations.FinalizeProducesTheResultInTailedOnly := by
  refine fun s => performs_toInstr .finalize s ?_
  cases hp : s.engine.phase with
  | tailed => exact Engine.finalize_of_tailed hp
  | error => exact Engine.finalize_of_error hp
  | done => exact Engine.finalize_of_done hp
  | idle => exact Engine.finalize_of_no_final_block (.inl hp)
  | absorb => exact Engine.finalize_of_no_final_block (.inr hp)

/-! ### The way back to IDLE (R108) -/

/-- Every instruction is a command's row, or the read or the write of a register. -/
theorem instr_cases (i : Instr) :
    (∃ c : Command, i = c.toInstr) ∨ (∃ r, i = rdInstr r) ∨ ∃ r v, i = wrInstr r v := by
  rcases decode_ok_cases (decodeOfEncodeIsTheInstruction i) with ⟨c, -, h⟩ | ⟨r, -, h⟩ | ⟨r, v, -, h⟩
  · exact .inl ⟨c, h⟩
  · exact .inr (.inl ⟨r, h⟩)
  · exact .inr (.inr ⟨r, v, h⟩)

/-- R108: ABORT is the only command that enters IDLE. -/
theorem Engine.eq_abort_of_runCommand_idle {c : Command} {e : Engine} (hp : e.phase ≠ .idle)
    (h : (e.runCommand c).phase = .idle) : c = .abort := by
  cases c with
  | abort => rfl
  | nop => exact absurd h hp
  | init =>
    rcases e.init_cases with ⟨-, he⟩ | ⟨-, -, he⟩ <;> simp [Engine.runCommand, he] at h
  | absorb =>
    rcases e.absorb_cases with ⟨-, he⟩ | ⟨-, he⟩ | ⟨-, -, he⟩ <;> simp [Engine.runCommand, he, hp] at h
  | tail n =>
    rcases e.tail_cases n with ⟨-, he⟩ | ⟨-, he⟩ | ⟨-, -, he⟩ <;> simp [Engine.runCommand, he, hp] at h
  | finalize =>
    rcases e.finalize_cases with ⟨-, he⟩ | ⟨-, he⟩ | ⟨-, he⟩ | ⟨-, he⟩ <;>
      simp [Engine.runCommand, he, hp] at h

/-- R108: the only write that enters IDLE is that of ABORT's word to CMD. -/
theorem WriteEffect.eq_abort_of_idle {e f : Engine} {r : Reg} {v : Word} (hw : WriteEffect e r v f)
    (hp : e.phase ≠ .idle) (h : f.phase = .idle) : r = .cmd ∧ v = cmdWord .abort := by
  cases hw with
  | command =>
    rcases e.execCmd_cases v with ⟨c, hd, he⟩ | ⟨opc, -, -, he⟩ | ⟨opc, -, -, he⟩ <;> rw [he] at h
    · exact ⟨rfl, Engine.eq_abort_of_runCommand_idle hp h ▸ eq_cmdWord_of_decodeCmd hd⟩
    · exact absurd h hp
    · cases h
  | ignored | msg | cfg | key0 | key1 => exact absurd h hp
  | lockedOut => cases h

/-- Settles O20: ABORT's own effect, and what enters IDLE among the commands, the reads and the writes. -/
theorem abortAloneReturnsToIdle : Obligations.AbortAloneReturnsToIdle := by
  refine ⟨fun s => performs_toInstr .abort s rfl, fun i s t h hp ht => ?_⟩
  rw [exec_next h] at ht
  rcases instr_cases i with ⟨c, rfl⟩ | ⟨r, rfl⟩ | ⟨r, v, rfl⟩
  · rw [Engine.effect_toInstr] at ht
    exact .inl (congrArg Command.toInstr (Engine.eq_abort_of_runCommand_idle hp ht))
  · rw [Engine.effect_rdInstr] at ht
    exact absurd ht hp
  · obtain ⟨rfl, rfl⟩ := (Engine.effect_wrInstr s.engine r v).eq_abort_of_idle hp ht
    exact .inr rfl

/-! ### TAIL's block (R106) -/

/-- R106: below the tag, TAIL's block has the low n bytes of MSG and zeros. -/
theorem lane_tailBlock_of_lt (e : Engine) (n : BitVec 3) {j : Nat} (hj : j < 7) :
    lane (e.tailBlock n) j = if j < n.toNat then lane e.msg j else 0 := by
  rw [Engine.tailBlock, lane_or, lane_tag_of_lt _ hj, lane_and_tailMask _ _ (by omega)]
  exact BitVec.or_zero

/-- R106: byte 7 of TAIL's block is the low byte of the message length. -/
theorem lane_tailBlock_seven (e : Engine) (n : BitVec 3) :
    lane (e.tailBlock n) 7 = (e.tailLength n).setWidth 8 := by
  have hn : ¬7 < n.toNat := by omega
  rw [Engine.tailBlock, lane_or, lane_and_tailMask _ _ (by decide), if_neg hn, lane_tag_seven]
  apply BitVec.eq_of_toNat_eq
  simp

/-- Settles O21, byte by byte. -/
theorem tailBlockKeepsExactlyTheTrailingBytes : Obligations.TailBlockKeepsExactlyTheTrailingBytes := by
  refine fun e n => ⟨fun j hj => ?_, fun j hn hj => ?_, ?_⟩
  · rw [lane_tailBlock_of_lt e n (by omega), if_pos hj]
  · rw [lane_tailBlock_of_lt e n hj, if_neg (Nat.not_lt.2 hn)]
  · rw [lane_tailBlock_seven, Engine.tailLength]
    simp

/-! ### The phase table (R112) -/

/-- R112: from the engine `e` to `f` the phase goes as the row's cell says: to the next phase, with its error code
recorded; a cell of ERROR without one keeps ERR. -/
def FollowsRow (e : Engine) (row : TableRow) (f : Engine) : Prop :=
  f.phase = (cell row e.phase).1 ∧ (∀ c, (cell row e.phase).2 = some c → f.err = c) ∧
  ((cell row e.phase).2 = none → f.phase = .error → f.err = e.err)

/-- R112: a cell that raises an error. -/
theorem followsRow_of_raised {e f : Engine} {row : TableRow} {code : Err} (hp : f.phase = .error) (he : f.err = code)
    (hcell : cell row e.phase = (.error, some code)) : FollowsRow e row f := by
  simp [FollowsRow, hcell, hp, he]

/-- R112: a cell without an error code, of another phase than ERROR. -/
theorem followsRow_of_moved {e f : Engine} {row : TableRow} (hp : f.phase ≠ .error)
    (hcell : cell row e.phase = (f.phase, none)) : FollowsRow e row f := by
  simp [FollowsRow, hcell, hp]

/-- R112: a cell that keeps the phase. -/
theorem followsRow_of_kept {e f : Engine} {row : TableRow} (hp : f.phase = e.phase) (he : f.err = e.err)
    (hcell : cell row e.phase = (e.phase, none)) : FollowsRow e row f := by
  simp [FollowsRow, hcell, hp, he]

/-- R102: a word that is no command's has the row of the illegal words. -/
theorem rowOfWord_of_illegal {w : Word} (h : legalWord w = false) (e : Engine) : rowOfWord e w = .illegal := by
  have hnot := mt (exactlyThirteenWordsAreLegal w).2 (by simp [h])
  simp only [List.mem_cons, List.not_mem_nil, or_false, not_or, BitVec.ofNat_eq_ofNat] at hnot
  simp [rowOfWord, tailWords, hnot]

/-- R112: a word of TAIL has TAIL's row. -/
theorem rowOfWord_tail (n : BitVec 3) (e : Engine) : rowOfWord e (cmdWord (.tail n)) = .tail := by
  have hne : cmdWord (.tail n) ≠ 0 ∧ cmdWord (.tail n) ≠ 1 ∧ cmdWord (.tail n) ≠ 2 := by revert n; decide
  obtain ⟨h0, h1, h2⟩ := hne
  rw [rowOfWord, if_neg h0, if_neg h1, if_neg h2, if_pos (cmdWord_tail_mem_tailWords n)]

/-- R104, R112: INIT in every phase. -/
theorem followsRow_init (e : Engine) : FollowsRow e (rowOfWord e (cmdWord .init)) e.init := by
  have hrow : rowOfWord e (cmdWord .init) = if e.cfgC = 0 ∨ e.cfgD = 0 then .initZero else .init := rfl
  rcases e.init_cases with ⟨hz, he⟩ | ⟨hc, hd, he⟩ <;> rw [hrow, he]
  · rw [if_pos hz]; exact followsRow_of_raised rfl rfl rfl
  · rw [if_neg (not_or.2 ⟨hc, hd⟩)]; exact followsRow_of_moved nofun rfl

/-- R105, R112: ABSORB in every phase. -/
theorem followsRow_absorb (e : Engine) : FollowsRow e .absorb e.absorb := by
  cases hp : e.phase with
  | absorb => rw [Engine.absorb_of_absorb hp]; exact followsRow_of_kept rfl rfl (by rw [hp]; rfl)
  | error => rw [Engine.absorb_of_error hp]; exact followsRow_of_kept rfl rfl (by rw [hp]; rfl)
  | idle | tailed | done =>
    rw [Engine.absorb_of_ne (by simp [hp]) (by simp [hp])]
    exact followsRow_of_raised rfl rfl (by rw [hp]; rfl)

/-- R106, R112: TAIL in every phase. -/
theorem followsRow_tail (n : BitVec 3) (e : Engine) : FollowsRow e .tail (e.tail n) := by
  cases hp : e.phase with
  | absorb => rw [Engine.tail_of_absorb n hp]; exact followsRow_of_moved nofun (by rw [hp]; rfl)
  | error => rw [Engine.tail_of_error n hp]; exact followsRow_of_kept rfl rfl (by rw [hp]; rfl)
  | idle | tailed | done =>
    rw [Engine.tail_of_ne n (by simp [hp]) (by simp [hp])]
    exact followsRow_of_raised rfl rfl (by rw [hp]; rfl)

/-- R107, R112: FINALIZE in every phase. -/
theorem followsRow_finalize (e : Engine) : FollowsRow e .finalize e.finalize := by
  rcases e.finalize_cases with ⟨hp, he⟩ | ⟨hp, he⟩ | ⟨hp, he⟩ | ⟨hp | hp, he⟩ <;> rw [he]
  · exact followsRow_of_moved nofun (by rw [hp]; rfl)
  · exact followsRow_of_kept rfl rfl (by rw [hp]; rfl)
  all_goals exact followsRow_of_raised rfl rfl (by rw [hp]; rfl)

/-- R112: a command follows the row of its word. -/
theorem followsRow_runCommand (c : Command) (e : Engine) :
    FollowsRow e (rowOfWord e (cmdWord c)) (e.runCommand c) := by
  cases c with
  | nop => exact followsRow_of_kept rfl rfl rfl
  | init => exact followsRow_init e
  | absorb => exact followsRow_absorb e
  | tail n => rw [rowOfWord_tail]; exact followsRow_tail n e
  | finalize => exact followsRow_finalize e
  | abort => exact followsRow_of_moved nofun rfl

/-- R112: a write of CMD follows the row of the word written. -/
theorem followsRow_execCmd (w : Word) (e : Engine) : FollowsRow e (rowOfWord e w) (e.execCmd w) := by
  cases hd : decodeCmd w with
  | ok c =>
    rw [Engine.execCmd_of_ok hd, eq_cmdWord_of_decodeCmd hd]
    exact followsRow_runCommand c e
  | error opc =>
    rw [Engine.execCmd_of_error hd, rowOfWord_of_illegal (decodeCmd_eq_error_iff.1 hd).1]
    by_cases hp : e.phase = .error
    · rw [Engine.raise_eq_of_error _ _ _ hp]; exact followsRow_of_kept rfl rfl (by rw [hp]; rfl)
    · rw [Engine.raise_eq_of_ne _ _ _ hp]
      refine followsRow_of_raised rfl rfl ?_
      cases he : e.phase with
      | error => exact absurd he hp
      | idle | absorb | tailed | done => rfl

/-- R95–R97, R112: a guarded write follows the row of the guarded registers. -/
theorem followsRow_guardedWrite {off : Byte} {store : Engine → Engine} {e : Engine}
    (hp : (store e).phase = e.phase) (he : (store e).err = e.err) :
    FollowsRow e .guarded (e.guardedWrite off store) := by
  cases h : e.phase with
  | idle | done | error =>
    rw [Engine.guardedWrite_of_unlocked (by simp [Engine.locked, h])]
    exact followsRow_of_kept hp he (by rw [h]; rfl)
  | absorb | tailed =>
    rw [Engine.guardedWrite_eq, if_pos (by simp [h])]
    exact followsRow_of_raised rfl rfl (by rw [h]; rfl)

/-- R112: the write of a register follows the row of the access. -/
theorem followsRow_wrInstr (r : Reg) (v : Word) (e : Engine) :
    FollowsRow e (rowOf e (r.write v)) (e.effect (wrInstr r v)) := by
  cases r with
  | cmd => exact followsRow_execCmd v e
  | cfg | key0 | key1 => exact followsRow_guardedWrite rfl rfl
  | msg | id | status | len | result | const0 | const1 | const2 | const3 => exact followsRow_of_kept rfl rfl rfl

/-- R43, R112: a refused access has the table's last row. -/
theorem rowOf_of_refused {a : Access} (h : busErrorAccess a = true) (e : Engine) : rowOf e a = .other := by
  cases a with
  | rd n off => rfl
  | wr n off w =>
    have hcases : n ≠ 8 ∨ off % 8 ≠ 0 ∨ off = 0x68 ∨ off = 0x70 ∨ off = 0x78 := (busErrorAccess_iff _).1 h
    rw [rowOf, if_neg (by omega), if_neg (by omega)]

/-- Settles O27: a refused access and a read change nothing, and a write follows the row of its register. -/
theorem phaseTransitionsFollowTheTable : Obligations.PhaseTransitionsFollowTheTable := by
  intro s a rest hlt hi
  by_cases hb : busErrorAccess a = true
  · refine ⟨_, step_of_busError hi (decodeBus_of_refused hlt hb), rfl, ?_⟩
    rw [rowOf_of_refused hb]
    exact followsRow_of_kept (row := .other) rfl rfl rfl
  · obtain ⟨i, hd⟩ := exists_decodeBus_eq_ok hlt hb
    refine ⟨_, step_of_accepted hi hd, rfl, ?_⟩
    obtain ⟨r, ⟨rfl, rfl⟩ | ⟨v, rfl, rfl⟩⟩ := decodeBus_ok hd
    · rw [Engine.effect_rdInstr]
      exact followsRow_of_kept (row := .other) rfl rfl rfl
    · exact followsRow_wrInstr r v s.engine

end Sys2Proof.Machine

namespace Sys2Proof.Machine.HostProgram

/-! ### Host programs that run to their end (R61–R63) -/

/-- Taking all the accesses of `p`, one step each and whatever comes after them, brings the engine from `e` to `f`. -/
def Drives (p : List Access) (e f : Engine) : Prop :=
  ∀ (rest : List Event) (q : Option Response),
    ∃ q', Sys2Proof.core.run p.length ⟨e, events p ++ rest, q⟩ = .next ⟨f, rest, q'⟩

/-- A program is driven part after part. -/
theorem Drives.append {p p' : List Access} {e f g : Engine} (h : Drives p e f) (h' : Drives p' f g) :
    Drives (p ++ p') e g := by
  intro rest q
  obtain ⟨q₁, hrun⟩ := h (events p' ++ rest) q
  obtain ⟨q₂, hrun'⟩ := h' rest q₁
  have hevents : events (p ++ p') ++ rest = events p ++ (events p' ++ rest) := by simp [events]
  exact ⟨q₂, by rw [List.length_append, hevents, run_add_of_run hrun, hrun']⟩

/-- R93: the write of a register. -/
theorem drives_write (r : Reg) (v : Word) (e : Engine) : Drives [r.write v] e (e.effect (wrInstr r v)) :=
  fun rest q => ⟨some .ok, run_succ_of_step (step_write r v e rest q)⟩

/-- R62, R94: the write of a command's word. -/
theorem drives_cmd (c : Command) {e f : Engine} (h : e.runCommand c = f) : Drives [cmd c] e f := by
  rw [← h, ← Engine.execCmd_of_ok (decodeCmd_cmdWord c) e]
  exact drives_write .cmd (cmdWord c) e

/-- R63, R105: BLOCK in ABSORB. -/
theorem drives_block (m : Word) {e : Engine} (h : e.phase = .absorb) :
    Drives (block m) e { e with v := compressBlock e.v m e.rounds, msg := m, len := e.len + 8 } :=
  (drives_write .msg m e).append
    (drives_cmd .absorb (Engine.absorb_of_absorb (e := { e with msg := m }) h))

/-- R77, R105: BLOCK after BLOCK in ABSORB compresses the blocks in order. -/
theorem drives_blocks (ms : List Word) {e : Engine} (h : e.phase = .absorb) :
    Drives (ms.flatMap block) e
      { e with
        v := compress e.v ms e.rounds, msg := ms.getLastD e.msg, len := e.len + BitVec.ofNat 64 (8 * ms.length) } := by
  induction ms generalizing e with
  | nil => exact fun rest q => ⟨q, by simp [events, run_zero]⟩
  | cons m ms ih =>
    have hlen : e.len + 8 + BitVec.ofNat 64 (8 * ms.length) = e.len + BitVec.ofNat 64 (8 * (m :: ms).length) := by
      rw [List.length_cons]; bv_omega
    rw [List.flatMap_cons, List.getLastD_cons, compress_cons, ← hlen]
    exact (drives_block m h).append (ih h)

/-- R63, R106: LAST in ABSORB. -/
theorem drives_last (n : BitVec 3) (m : Word) {e : Engine} (h : e.phase = .absorb) :
    Drives (last n m) e
      { e with
        v := compressBlock e.v (Engine.tailBlock { e with msg := m } n) e.rounds, msg := m, len := e.tailLength n
        phase := .tailed } :=
  (drives_write .msg m e).append
    (drives_cmd (.tail n) (Engine.tail_of_absorb n (e := { e with msg := m }) h))

/-! ### The Compute protocol (R110, R111) -/

/-- R110: LEN after all full blocks and TAIL is the message's length. -/
theorem tailLength_tailCount {e : Engine} {b : List Byte} (hlen : e.len = BitVec.ofNat 64 (8 * (b.length / 8))) :
    e.tailLength (tailCount b) = BitVec.ofNat 64 b.length := by
  apply BitVec.eq_of_toNat_eq
  rw [Engine.tailLength, tailCount, hlen]
  simp
  omega

/-- R106, R110: with the trailing bytes in MSG's low lanes, whatever stands above them, TAIL compresses the message's
final block. -/
theorem tailBlock_eq_finalBlock {e : Engine} {b : List Byte} (hlen : e.len = BitVec.ofNat 64 (8 * (b.length / 8)))
    (hmsg : ∀ j : Nat, j < b.length % 8 → b[8 * (b.length / 8) + j]? = some (lane e.msg j)) :
    e.tailBlock (tailCount b) = finalBlock b := by
  have hcount : (tailCount b).toNat = b.length % 8 := by simp [tailCount]
  refine eq_of_lane_eq fun j hj => ?_
  rcases Nat.lt_succ_iff_lt_or_eq.1 hj with hj | rfl
  · rw [lane_tailBlock_of_lt e _ hj, hcount]
    split
    next htrailing => exact Option.some_inj.1 ((hmsg j htrailing).symm.trans (getElem?_eq_lane_finalBlock htrailing))
    next hpadding => exact (lane_finalBlock_padding (Nat.not_lt.1 hpadding) hj).symm
  · rw [lane_tailBlock_seven, tailLength_tailCount hlen, lane_finalBlock_seven]
    exact BitVec.setWidth_ofNat_of_le (by decide) _

/-- R73, R110: a new computation that takes all blocks of a message compresses Encode(B). -/
theorem drives_message {e : Engine} {b : List Byte} {m : Word} (hp : e.phase = .absorb) (hlen : e.len = 0)
    (hm : ∀ j : Nat, j < b.length % 8 → b[8 * (b.length / 8) + j]? = some (lane m j)) :
    Drives ((fullBlocks b).flatMap block ++ last (tailCount b) m) e
      { e with
        v := compress e.v (encodeMessage b) e.rounds, msg := m, len := BitVec.ofNat 64 b.length
        phase := .tailed } := by
  have hblocks := drives_blocks (fullBlocks b) hp
  rw [hlen, fullBlocks_length, zero_add] at hblocks
  have hrun := hblocks.append (drives_last (tailCount b) m hp)
  rw [tailBlock_eq_finalBlock rfl hm, tailLength_tailCount rfl] at hrun
  rw [encodeMessage, compress_append]
  exact hrun

/-- R111: the engine in DONE that the Compute protocol leaves, with the hash of `b` in RESULT, when `m` is the word written
to MSG for the last block. -/
def afterCompute (b : List Byte) (m : Word) (e : Engine) : Engine :=
  { e with
    v := (finalizeState (compress (initState e.key0 e.key1) (encodeMessage b) e.rounds) e.finalRounds).2
    msg := m, phase := .done, err := .none, errInfo := 0, len := BitVec.ofNat 64 b.length
    result := sipHash e.key0 e.key1 e.rounds e.finalRounds b }

/-- R111: the Compute protocol from INIT to FINALIZE, from any phase. -/
theorem drives_computeCore {e : Engine} {b : List Byte} {m : Word} (hc : e.cfgC ≠ 0) (hd : e.cfgD ≠ 0)
    (hm : ∀ j : Nat, j < b.length % 8 → b[8 * (b.length / 8) + j]? = some (lane m j)) :
    Drives (computeCore b m) e (afterCompute b m e) := by
  have hinit := drives_cmd .init (Engine.init_of_counts hc hd)
  have hrun := (hinit.append (drives_message rfl rfl hm)).append (drives_cmd .finalize (Engine.finalize_of_tailed rfl))
  rw [← List.append_assoc] at hrun
  exact hrun

/-- R86, R135: STATUS after the protocol. -/
theorem statusWord_afterCompute (b : List Byte) (m : Word) (e : Engine) : (afterCompute b m e).statusWord = 0x3 := by
  simp [Engine.statusWord, afterCompute, Phase.code, Err.code]

/-- Settles O54, by driving the protocol part after part. -/
theorem computeProtocolEqualsSipHash : Obligations.ComputeProtocolEqualsSipHash := by
  rintro ⟨e, inbox, q⟩ b m rest hc hd hm rfl
  obtain ⟨q', hrun⟩ := drives_computeCore hc hd hm rest q
  exact ⟨_, hrun, rfl, rfl, rfl, rfl, rfl⟩

/-! ### NEW and the whole Compute protocol (R101, R110) -/

/-- R63: the mask of SETCFG keeps a 16-bit count. -/
theorem setWidth_and_mask (x : BitVec 16) : x.setWidth 64 &&& (0xFFFF : Word) = x.setWidth 64 := by
  apply BitVec.eq_of_toNat_eq
  rw [BitVec.toNat_and, BitVec.toNat_setWidth_of_le (by decide)]
  exact Nat.and_two_pow_sub_one_of_lt_two_pow x.isLt

/-- R63: the word SETCFG writes, with C, too, written as a placed field. -/
theorem setCfg_eq_placed (c d : BitVec 16) :
    setCfg (c.setWidth 64) (d.setWidth 64) = [Reg.cfg.write (c.setWidth 64 <<< 0 ||| d.setWidth 64 <<< 16)] := by
  have hmasked : setCfg (c.setWidth 64) (d.setWidth 64) =
      [Reg.cfg.write (c.setWidth 64 &&& (0xFFFF : Word) ||| (d.setWidth 64 &&& (0xFFFF : Word)) <<< 16)] := rfl
  rw [hmasked, setWidth_and_mask, setWidth_and_mask, BitVec.shiftLeft_zero]

/-- R95: the counts CFG takes from that word. -/
theorem cfg_of_placed (c d : BitVec 16) :
    cfgCOf (c.setWidth 64 <<< 0 ||| d.setWidth 64 <<< 16) = c ∧
    cfgDOf (c.setWidth 64 <<< 0 ||| d.setWidth 64 <<< 16) = d := by
  constructor <;>
    simp [cfgCOf, cfgDOf, BitVec.extractLsb'_or, extractLsb'_placed_same, extractLsb'_placed_of_disjoint,
      -BitVec.shiftLeft_zero]

/-- R95–R97: the guarded write of a register while the lock is open. -/
theorem drives_guarded {r : Reg} {v : Word} {off : Byte} {store : Engine → Engine} {e : Engine}
    (heffect : e.effect (wrInstr r v) = e.guardedWrite off store) (h : e.locked = false) :
    Drives [r.write v] e (store e) := by
  rw [← Engine.guardedWrite_of_unlocked h off store, ← heffect]
  exact drives_write r v e

/-- R101: NEW while the lock is open. -/
theorem drives_new (k0 k1 : Word) (c d : BitVec 16) {e : Engine} (h : e.locked = false) :
    Drives (new k0 k1 (c.setWidth 64) (d.setWidth 64)) e { e with key0 := k0, key1 := k1, cfgC := c, cfgD := d } := by
  have hkey0 := drives_guarded (r := .key0) (v := k0) (store := fun e => { e with key0 := k0 }) rfl h
  have hkey1 := drives_guarded (r := .key1) (v := k1) (store := fun e => { e with key1 := k1 })
    (e := { e with key0 := k0 }) rfl h
  have hcfg : Drives (setCfg (c.setWidth 64) (d.setWidth 64)) { e with key0 := k0, key1 := k1 }
      { e with key0 := k0, key1 := k1, cfgC := c, cfgD := d } := by
    obtain ⟨hc, hd⟩ := cfg_of_placed c d
    have hwrite := drives_guarded (r := .cfg) (v := c.setWidth 64 <<< 0 ||| d.setWidth 64 <<< 16)
      (store := fun e => { e with cfgC := cfgCOf _, cfgD := cfgDOf _ }) (e := { e with key0 := k0, key1 := k1 }) rfl h
    rw [setCfg_eq_placed]
    rwa [hc, hd] at hwrite
  exact (hkey0.append hkey1).append hcfg

/-- R75, R110: the zero-extended trailing bytes are the bytes TAIL takes. -/
theorem getElem?_eq_lane_le64_trailing {b : List Byte} {j : Nat} (hj : j < b.length % 8) :
    b[8 * (b.length / 8) + j]? = some (lane (le64 (trailing b)) j) := by
  rw [getElem?_eq_lane_finalBlock hj, lane_finalBlock_of_lt b (by omega), lane_le64 _ (by omega)]

/-- Settles O55: NEW, the protocol up to FINALIZE, and the two reads. -/
theorem computeProgramReturnsTheHash : Obligations.ComputeProgramReturnsTheHash := by
  rintro ⟨e, inbox, q⟩ k0 k1 c d b rest hc hd hl rfl
  have hcore := (drives_new k0 k1 c d hl).append
    (drives_computeCore (m := le64 (trailing b)) hc hd fun _ => getElem?_eq_lane_le64_trailing)
  obtain ⟨q', hrun⟩ := hcore (events [Reg.status.read, Reg.result.read] ++ rest) q
  have hlength : 3 + (compute b).length - 1 =
      (new k0 k1 (c.setWidth 64) (d.setWidth 64) ++ computeCore b (le64 (trailing b))).length + 1 := by
    simp [compute, new, setKey, setCfg]; omega
  have hevents : events (new k0 k1 (c.setWidth 64) (d.setWidth 64) ++ compute b) ++ rest =
      events (new k0 k1 (c.setWidth 64) (d.setWidth 64) ++ computeCore b (le64 (trailing b))) ++
        (events [Reg.status.read, Reg.result.read] ++ rest) := by
    simp [compute, events]
  have hsteps := run_add_of_run (m := 1) hrun
  rw [← hlength, ← hevents] at hsteps
  have hstatus := statusWord_afterCompute b (le64 (trailing b)) { e with key0 := k0, key1 := k1, cfgC := c, cfgD := d }
  exact ⟨_, _, hsteps.trans (run_succ_of_step (step_read .status _ _ _)),
    congrArg (fun w => some (Response.data w)) hstatus, hstatus, step_read .result _ rest _, rfl, rfl⟩

end Sys2Proof.Machine.HostProgram

/-! Proofs about engine errors (60_exceptions.md): raising an error, the cause table of R113, precision, and the
ERROR phase with its three ways out. -/

namespace Sys2Proof

/-- R55: the words the opcode table admits are the legal ones. -/
theorem wordWf_eq_legalWord (w : Word) : wordWf w = legalWord w := by
  refine Bool.eq_iff_iff.2 ⟨legalWord_of_wordWf, fun h => ?_⟩
  obtain ⟨c, rfl⟩ := legalWord_iff_exists_cmdWord.1 h
  have hwf := encode_wf c.toInstr
  rwa [encode_toInstr] at hwf

end Sys2Proof

namespace Sys2Proof.Machine

open Sys2Proof.Safety

/-- Settles O22, by the guard of R115. -/
theorem raiseRecordsOnlyTheFirstError : Obligations.RaiseRecordsOnlyTheFirstError :=
  fun code info e => ⟨e.raise_eq_of_ne code info, e.raise_eq_of_error code info⟩

/-! ### The cause table (R113) -/

/-- R113, the rows of the commands: `CommandCause e c code info` when the command `c` raises the error `code` with
`info` in the engine `e`. -/
inductive CommandCause (e : Engine) : Command → Err → Byte → Prop
  | absorb (ha : e.phase ≠ .absorb) (he : e.phase ≠ .error) : CommandCause e .absorb .sequence 0x02
  | tail (n : BitVec 3) (ha : e.phase ≠ .absorb) (he : e.phase ≠ .error) : CommandCause e (.tail n) .sequence 0x03
  | finalizeDone (h : e.phase = .done) : CommandCause e .finalize .sequence 0x04
  | finalizeOpen (h : e.phase = .idle ∨ e.phase = .absorb) : CommandCause e .finalize .missingInput 0x04
  | init (h : e.cfgC = 0 ∨ e.cfgD = 0) : CommandCause e .init .zeroRounds 0x01

/-- R113, the whole table: `WriteCause e r v code info` when the 8-byte write of `v` to register `r` raises the error
`code` with `info` in the engine `e`. -/
inductive WriteCause (e : Engine) : Reg → Word → Err → Byte → Prop
  | command {c : Command} {code : Err} {info : Byte} (h : CommandCause e c code info) :
      WriteCause e .cmd (cmdWord c) code info
  | illegal {w : Word} (hw : legalWord w = false) (he : e.phase ≠ .error) :
      WriteCause e .cmd w .illegalCmd (opcField w)
  | locked {r : Reg} (v : Word) (hr : r = .cfg ∨ r = .key0 ∨ r = .key1)
      (hp : e.phase = .absorb ∨ e.phase = .tailed) : WriteCause e r v .locked (BitVec.ofNat 8 r.offset)

/-- R115: from the engine `e` to `f` an error was raised: `f` is in ERROR and a STATUS field changed. -/
def EngineRaises (e f : Engine) : Prop :=
  f.phase = .error ∧ ¬(f.phase = e.phase ∧ f.err = e.err ∧ f.errInfo = e.errInfo)

/-- R115, R118: `f` is `e` with an error of `cause` recorded in STATUS, and nothing else changed. -/
def Records (cause : Err → Byte → Prop) (e f : Engine) : Prop :=
  ∃ code info, cause code info ∧ f = { e with err := code, errInfo := info, phase := .error }

/-- Raising an error is about the engine alone. -/
theorem raisesError_iff {s t : State} : RaisesError s t ↔ EngineRaises s.engine t.engine := Iff.rfl

/-- An engine whose STATUS fields are kept raises nothing. -/
theorem not_engineRaises_of_kept {e f : Engine} (hp : f.phase = e.phase) (hc : f.err = e.err)
    (hi : f.errInfo = e.errInfo) : ¬EngineRaises e f := fun h => h.2 ⟨hp, hc, hi⟩

/-- An engine outside ERROR has raised nothing. -/
theorem not_engineRaises_of_ne {e f : Engine} (hp : f.phase ≠ .error) : ¬EngineRaises e f := fun h => hp h.1

/-! ### What raises an error, and what it records (R113, R118) -/

/-- R113, R118: a command that raises an error records a row of the table, and does nothing else. -/
theorem Engine.runCommand_records {c : Command} {e : Engine} (h : EngineRaises e (e.runCommand c)) :
    Records (CommandCause e c) e (e.runCommand c) := by
  cases c with
  | nop => exact absurd h (not_engineRaises_of_kept rfl rfl rfl)
  | abort => exact absurd h (not_engineRaises_of_ne nofun)
  | init =>
    rcases e.init_cases with ⟨hz, he⟩ | ⟨-, -, he⟩ <;> rw [Engine.runCommand, he] at h ⊢
    · exact ⟨_, _, .init hz, rfl⟩
    · exact absurd h (not_engineRaises_of_ne nofun)
  | absorb =>
    rcases e.absorb_cases with ⟨-, he⟩ | ⟨-, he⟩ | ⟨hna, hne, he⟩ <;> rw [Engine.runCommand, he] at h ⊢
    · exact absurd h (not_engineRaises_of_kept rfl rfl rfl)
    · exact absurd h (not_engineRaises_of_kept rfl rfl rfl)
    · exact ⟨_, _, .absorb hna hne, rfl⟩
  | tail n =>
    rcases e.tail_cases n with ⟨-, he⟩ | ⟨-, he⟩ | ⟨hna, hne, he⟩ <;> rw [Engine.runCommand, he] at h ⊢
    · exact absurd h (not_engineRaises_of_ne nofun)
    · exact absurd h (not_engineRaises_of_kept rfl rfl rfl)
    · exact ⟨_, _, .tail n hna hne, rfl⟩
  | finalize =>
    rcases e.finalize_cases with ⟨-, he⟩ | ⟨-, he⟩ | ⟨hdone, he⟩ | ⟨hopen, he⟩ <;> rw [Engine.runCommand, he] at h ⊢
    · exact absurd h (not_engineRaises_of_ne nofun)
    · exact absurd h (not_engineRaises_of_kept rfl rfl rfl)
    · exact ⟨_, _, .finalizeDone hdone, rfl⟩
    · exact ⟨_, _, .finalizeOpen hopen, rfl⟩

/-- R102, R113: a write of CMD that raises an error raises its command's, or ILLEGAL_CMD. -/
theorem Engine.execCmd_records {w : Word} {e : Engine} (h : EngineRaises e (e.execCmd w)) :
    Records (WriteCause e .cmd w) e (e.execCmd w) := by
  rcases e.execCmd_cases w with ⟨c, hd, he⟩ | ⟨opc, -, -, he⟩ | ⟨opc, hd, hne, he⟩ <;> rw [he] at h ⊢
  · obtain rfl := eq_cmdWord_of_decodeCmd hd
    obtain ⟨code, info, hcause, hf⟩ := Engine.runCommand_records h
    exact ⟨code, info, .command hcause, hf⟩
  · exact absurd h (not_engineRaises_of_kept rfl rfl rfl)
  · obtain ⟨hw, rfl⟩ := decodeCmd_eq_error_iff.1 hd
    exact ⟨_, _, .illegal hw hne, rfl⟩

/-- R95–R97, R113: a guarded write that raises an error is locked out, if its store leaves STATUS. -/
theorem Engine.guardedWrite_records {r : Reg} {v : Word} {store : Engine → Engine} {e : Engine}
    (hr : r = .cfg ∨ r = .key0 ∨ r = .key1) (hstore : ¬EngineRaises e (store e))
    (h : EngineRaises e (e.guardedWrite (BitVec.ofNat 8 r.offset) store)) :
    Records (WriteCause e r v) e (e.guardedWrite (BitVec.ofNat 8 r.offset) store) := by
  rcases e.guardedWrite_cases (BitVec.ofNat 8 r.offset) store with ⟨-, he⟩ | ⟨hl, he⟩ <;> rw [he] at h ⊢
  · exact absurd h hstore
  · exact ⟨_, _, .locked v hr (e.locked_iff.1 hl), rfl⟩

/-- R113, R118: a register write that raises an error records a row of the table, and does nothing else. -/
theorem Engine.wrInstr_records {r : Reg} {v : Word} {e : Engine} (h : EngineRaises e (e.effect (wrInstr r v))) :
    Records (WriteCause e r v) e (e.effect (wrInstr r v)) := by
  cases r with
  | cmd => exact Engine.execCmd_records h
  | cfg => exact Engine.guardedWrite_records (r := .cfg) (.inl rfl) (not_engineRaises_of_kept rfl rfl rfl) h
  | key0 => exact Engine.guardedWrite_records (r := .key0) (.inr (.inl rfl)) (not_engineRaises_of_kept rfl rfl rfl) h
  | key1 => exact Engine.guardedWrite_records (r := .key1) (.inr (.inr rfl)) (not_engineRaises_of_kept rfl rfl rfl) h
  | msg | id | status | len | result | const0 | const1 | const2 | const3 =>
    exact absurd h (not_engineRaises_of_kept rfl rfl rfl)

/-- R118: what has been recorded is in STATUS, and the rest is unchanged. -/
theorem Records.eq_status_update {cause : Err → Byte → Prop} {e f : Engine} (h : Records cause e f) :
    f = { e with err := f.err, errInfo := f.errInfo, phase := .error } := by
  obtain ⟨code, info, -, rfl⟩ := h; rfl

/-- Settles O23: a command and a write record the error and nothing else, and respond OK; a read raises none. -/
theorem errorsArePrecise : Obligations.ErrorsArePrecise := by
  intro i s t h hraise
  obtain rfl := exec_next h
  rw [raisesError_iff] at hraise
  rcases instr_cases i with ⟨c, rfl⟩ | ⟨r, rfl⟩ | ⟨r, v, rfl⟩
  · rw [Engine.effect_toInstr] at hraise
    refine ⟨?_, rfl, by simp⟩
    simpa only [Engine.effect_toInstr] using (Engine.runCommand_records hraise).eq_status_update
  · rw [Engine.effect_rdInstr] at hraise
    exact absurd hraise (not_engineRaises_of_kept rfl rfl rfl)
  · exact ⟨(Engine.wrInstr_records hraise).eq_status_update, rfl, by simp⟩

/-- R113: a step that raises an error is an 8-byte write that records a row of the table. -/
theorem exists_writeCause_of_step {s t : State} (h : step s = .next t) (hraise : EngineRaises s.engine t.engine) :
    ∃ r v, NextIs s (Reg.write r v) ∧ Records (WriteCause s.engine r v) s.engine t.engine := by
  rcases step_cases h with ⟨-, rfl⟩ | ⟨c, rest, -, rfl⟩ | ⟨a, i, rest, hi, hd, rfl⟩ | ⟨a, off, rest, -, -, rfl⟩
  · exact absurd hraise (not_engineRaises_of_kept rfl rfl rfl)
  · exact absurd hraise (not_engineRaises_of_ne nofun)
  · obtain ⟨r, ⟨-, rfl⟩ | ⟨v, rfl, rfl⟩⟩ := decodeBus_ok hd
    · rw [Engine.effect_rdInstr] at hraise
      exact absurd hraise (not_engineRaises_of_kept rfl rfl rfl)
    · exact ⟨r, v, by rw [NextIs, hi]; rfl, Engine.wrInstr_records hraise⟩
  · exact absurd hraise (not_engineRaises_of_kept rfl rfl rfl)

/-- Settles O24, row by row of the cause table. -/
theorem everyErrorHasItsCauseAndInfo : Obligations.EveryErrorHasItsCauseAndInfo := by
  intro s t h hraise
  obtain ⟨r, v, hn, code, info, hcause, ht⟩ := exists_writeCause_of_step h (raisesError_iff.1 hraise)
  rw [ht]
  cases hcause with
  | illegal hw he => exact .inl ⟨v, hn, (wordWf_eq_legalWord v).trans hw, he, rfl, rfl⟩
  | command hcommand =>
    cases hcommand with
    | absorb ha he => exact .inr (.inl ⟨hn, ha, he, rfl, rfl⟩)
    | tail n ha he => exact .inr (.inr (.inl ⟨_, cmdWord_tail_mem_tailWords n, hn, ha, he, rfl, rfl⟩))
    | finalizeDone hp => exact .inr (.inr (.inr (.inl ⟨hn, hp, rfl, rfl⟩)))
    | finalizeOpen hp => exact .inr (.inr (.inr (.inr (.inl ⟨hn, hp, rfl, rfl⟩))))
    | init hz => exact .inr (.inr (.inr (.inr (.inr (.inl ⟨hn, hz, rfl, rfl⟩)))))
  | locked _ hr hp =>
    have hoff : r.offset = 0x18 ∨ r.offset = 0x20 ∨ r.offset = 0x28 := by
      rcases hr with rfl | rfl | rfl <;> decide
    exact .inr (.inr (.inr (.inr (.inr (.inr ⟨r.offset, v, hoff, hn, hp, rfl, rfl⟩)))))

/-! ### The ERROR phase (R116) -/

/-- R93, R109: an instruction that responds OK, given its effect in the state. -/
theorem exec_of_effect_eq {i : Instr} {s : State} {f : Engine} (h : s.engine.effect i = f)
    (hreply : s.engine.reply i = .ok) : exec i s = .next { s with engine := f, response := some .ok } := by
  rw [exec_eq, h, hreply]

/-- Settles O25: ERROR is no phase of ABSORB, TAIL or FINALIZE, keeps its error, and is not locked. -/
theorem errorPhaseIgnoresAllButRecovery : Obligations.ErrorPhaseIgnoresAllButRecovery := by
  intro s hp
  have hopen : s.engine.locked = false := by simp [Engine.locked, hp]
  refine ⟨exec_of_effect_eq (Engine.absorb_of_error hp) rfl, fun n => exec_of_effect_eq (Engine.tail_of_error n hp) rfl,
    exec_of_effect_eq (Engine.finalize_of_error hp) rfl, fun w hw => ?_,
    fun v => exec_of_effect_eq (Engine.guardedWrite_of_unlocked hopen 0x20 fun e => { e with key0 := v }) rfl,
    fun v => exec_of_effect_eq (Engine.guardedWrite_of_unlocked hopen 0x28 fun e => { e with key1 := v }) rfl,
    fun v => exec_of_effect_eq
      (Engine.guardedWrite_of_unlocked hopen 0x18 fun e => { e with cfgC := cfgCOf v, cfgD := cfgDOf v }) rfl,
    fun v => exec_of_effect_eq rfl rfl⟩
  have hd := decodeCmd_of_illegal ((wordWf_eq_legalWord w).symm.trans hw)
  exact exec_of_effect_eq ((Engine.execCmd_of_error hd _).trans (Engine.raise_eq_of_error _ _ _ hp)) rfl

/-! ### The ways out of ERROR (R117) -/

/-- R117: only INIT with both counts nonzero and ABORT leave ERROR. -/
theorem Engine.init_or_abort_of_leaves_error {c : Command} {e : Engine} (hp : e.phase = .error)
    (h : (e.runCommand c).phase ≠ .error) : (c = .init ∧ e.cfgC ≠ 0 ∧ e.cfgD ≠ 0) ∨ c = .abort := by
  cases c with
  | init =>
    rcases e.init_cases with ⟨-, he⟩ | ⟨hc, hd, -⟩
    · simp [Engine.runCommand, he] at h
    · exact .inl ⟨rfl, hc, hd⟩
  | abort => exact .inr rfl
  | nop => exact absurd hp h
  | absorb => rw [Engine.runCommand, Engine.absorb_of_error hp] at h; exact absurd hp h
  | tail n => rw [Engine.runCommand, Engine.tail_of_error n hp] at h; exact absurd hp h
  | finalize => rw [Engine.runCommand, Engine.finalize_of_error hp] at h; exact absurd hp h

/-- R117: a write that leaves ERROR writes the word of a command to CMD, and has its effect. -/
theorem WriteEffect.eq_command_of_leaves_error {e f : Engine} {r : Reg} {v : Word} (hw : WriteEffect e r v f)
    (hp : e.phase = .error) (h : f.phase ≠ .error) : ∃ c, r = .cmd ∧ v = cmdWord c ∧ f = e.runCommand c := by
  cases hw with
  | command =>
    rcases e.execCmd_cases v with ⟨c, hd, he⟩ | ⟨opc, -, -, he⟩ | ⟨opc, -, -, he⟩
    · exact ⟨c, rfl, eq_cmdWord_of_decodeCmd hd, he⟩
    · rw [he] at h; exact absurd hp h
    · rw [he] at h; exact absurd rfl h
  | ignored | msg | cfg | key0 | key1 => exact absurd hp h
  | lockedOut => exact absurd rfl h

/-- Settles O26, by what a write can do in ERROR and the commands that leave it. -/
theorem onlyInitAbortAndResetLeaveError : Obligations.OnlyInitAbortAndResetLeaveError := by
  intro s t h hp ht
  rcases step_engine_cases h with he | hreset | ⟨r, v, hn, hw⟩
  · exact absurd (he ▸ hp) ht
  · exact .inr (.inr hreset)
  · obtain ⟨c, rfl, rfl, he⟩ := hw.eq_command_of_leaves_error hp ht
    rw [he] at ht ⊢
    rcases Engine.init_or_abort_of_leaves_error hp ht with ⟨rfl, hc, hd⟩ | rfl
    · rw [Engine.runCommand, Engine.init_of_counts hc hd]
      exact .inl ⟨hn, hc, hd, rfl, rfl, rfl⟩
    · exact .inr (.inl ⟨hn, rfl, rfl, rfl, rfl, rfl, rfl⟩)

end Sys2Proof.Machine

/-! Proofs about reset and hazards (70_reset_and_hazards.md): RESET, ABORT beside it, and the length of the Compute
protocol. -/

namespace Sys2Proof.Machine

/-! ### RESET and ABORT (R127, R128) -/

/-- Settles O31: RESET's next state does not depend on the engine, and with no coinciding access nothing responds. -/
theorem resetEventGivesTheResetValues : Obligations.ResetEventGivesTheResetValues := by
  intro s coinciding rest hi
  refine ⟨_, step_of_reset hi, rfl, rfl, ?_⟩
  rintro rfl
  rfl

/-- R108, R128: ABORT makes the reset engine around the host's registers. -/
theorem Engine.abort_eq_reset_with (e : Engine) :
    e.abort =
      { Engine.reset with key0 := e.key0, key1 := e.key1, cfgC := e.cfgC, cfgD := e.cfgD, msg := e.msg } := rfl

/-- Settles O33, by ABORT's effect on the engine. -/
theorem abortIsResetKeepingKeyCfgMsg : Obligations.AbortIsResetKeepingKeyCfgMsg := by
  intro s t h
  obtain rfl := exec_next h
  exact s.engine.abort_eq_reset_with

end Sys2Proof.Machine

namespace Sys2Proof.Machine.HostProgram

/-! ### The length of the Compute protocol (R110, R137) -/

/-- R137: the number of commands a program issues, its accesses to CMD. -/
def commandCount (p : List Access) : Nat := (p.filter fun a => a.off == 0x08).length

/-- The commands of two programs in sequence add up. -/
@[simp] theorem commandCount_append (p q : List Access) :
    commandCount (p ++ q) = commandCount p + commandCount q := by
  simp [commandCount]

@[simp] theorem commandCount_cmd (c : Command) : commandCount [cmd c] = 1 := rfl

@[simp] theorem commandCount_block (m : Word) : commandCount (block m) = 1 := rfl

@[simp] theorem commandCount_last (n : BitVec 3) (m : Word) : commandCount (last n m) = 1 := rfl

@[simp] theorem block_length (m : Word) : (block m).length = 2 := rfl

@[simp] theorem last_length (n : BitVec 3) (m : Word) : (last n m).length = 2 := rfl

/-- R63: one command per BLOCK. -/
@[simp] theorem commandCount_flatMap_block (ms : List Word) : commandCount (ms.flatMap block) = ms.length := by
  induction ms with
  | nil => rfl
  | cons m ms ih => simp [ih, Nat.add_comm]

/-- R63: two accesses per BLOCK. -/
@[simp] theorem flatMap_block_length (ms : List Word) : (ms.flatMap block).length = 2 * ms.length := by
  simp [List.length_flatMap, Nat.mul_comm]

/-- R137: INIT, one ABSORB per full block, TAIL and FINALIZE. -/
theorem commandCount_computeCore (b : List Byte) (m : Word) : commandCount (computeCore b m) = b.length / 8 + 3 := by
  simp only [computeCore, commandCount_append, commandCount_cmd, commandCount_flatMap_block, fullBlocks_length,
    commandCount_last]
  omega

/-- R110: every full block and the last one take a write of MSG beside their command. -/
theorem computeCore_length (b : List Byte) (m : Word) : (computeCore b m).length = 2 * (b.length / 8) + 4 := by
  simp only [computeCore, List.length_append, List.length_singleton, flatMap_block_length, fullBlocks_length,
    last_length]
  omega

/-- Settles O56, part after part of the protocol. -/
theorem computeProtocolLength : Obligations.ComputeProtocolLength :=
  fun b m => ⟨commandCount_computeCore b m, computeCore_length b m⟩

end Sys2Proof.Machine.HostProgram
